-- ==== Sys2Proof/Word.lean ====
section
/-! DEFINITION. The word types of the core: a bus or register word (32 bits), a DMEM byte, the number of an operand
register and the number of an operand pair. -/

namespace Sys2Proof

/-- A 32-bit word of the register page, of the bus, or of Salsa20 (R105, R200, R550). -/
abbrev Word := BitVec 32

/-- A byte of DMEM (R205). -/
abbrev Byte := BitVec 8

/-- The number of an operand register, x0 to x31 (R100, R301). -/
abbrev Reg := Fin 32

/-- The number `j` of an operand pair (x[2j], x[2j+1]), 0 ≤ j ≤ 15 (R103). -/
abbrev Pair := Fin 16

end Sys2Proof
end

