-- ==== Sys2Proof/Machine/Bits.lean ====
section
/-! DEFINITION. The integer and byte-string notation of 00_scope.md R11 and R12: bitlen, nbytes, LE, BE, le_bytes, minBE, and
the 32-bit words of an operand register (10_state.md R102). -/

namespace Sys2Proof.Machine

open Sys2Proof

/-- bitlen(v): the least L with v < 2^L (R11). -/
def bitlen (v : Nat) : Nat := if v = 0 then 0 else Nat.log2 v + 1

/-- nbytes(v) = ceil(bitlen(v)/8) (R11). -/
def nbytes (v : Nat) : Nat := (bitlen v + 7) / 8

/-- LE(s), the little-endian integer of a byte string (R12). -/
def leNat : List Byte → Nat
  | [] => 0
  | b :: s => b.toNat + 256 * leNat s

/-- BE(s), the big-endian integer of a byte string; 0 for the empty string (R12). -/
def beNat (s : List Byte) : Nat := s.foldl (fun v b => v * 256 + b.toNat) 0

/-- le_bytes_N(v), the N-byte little-endian string of v (R12). -/
def leBytes : Nat → Nat → List Byte
  | 0, _ => []
  | n + 1, v => BitVec.ofNat 8 v :: leBytes n (v / 256)

/-- minBE(v), the big-endian string of v with exactly nbytes(v) bytes (R12). -/
def minBE (v : Nat) : List Byte := (leBytes (nbytes v) v).reverse

/-- Bits 32w+31 : 32w of an operand register's value (R102). -/
def windowWord (v w : Nat) : Word := BitVec.ofNat 32 (v / 2 ^ (32 * w))

/-- The value with exactly its bits 32w+31 : 32w replaced (R102). -/
def setWindowWord (v w : Nat) (d : Word) : Nat :=
  v % 2 ^ (32 * w) + d.toNat * 2 ^ (32 * w) + v / 2 ^ (32 * (w + 1)) * 2 ^ (32 * (w + 1))

/-- The value whose word `w` is `f w`, for the words below `n`. -/
def valueOfWords (f : Nat → Word) : Nat → Nat
  | 0 => 0
  | n + 1 => valueOfWords f n + (f n).toNat * 2 ^ (32 * n)

/-- The bytewise exclusive or of two strings (R561, R590), as long as the shorter one. -/
def xorBytes (s t : List Byte) : List Byte := List.zipWith (fun a b => a ^^^ b) s t

end Sys2Proof.Machine
end

