-- ==== Sys2Proof/Config.lean ====
section
/-! DEFINITION. The configuration of the core (00_scope.md R8), the constants that come from the source, and the free
values: what the spec leaves open is an `opaque` constant, of which nothing can be proved. -/

namespace Sys2Proof

/-- The curve record CURVE = (p, a, b, Gx, Gy, n) of y² = x³ + a·x + b over the field of p elements (R8, R450). -/
structure Curve where
  /-- the field prime -/
  p : Nat
  /-- the coefficient of x -/
  a : Nat
  /-- the constant coefficient -/
  b : Nat
  /-- the base point's x-coordinate -/
  gx : Nat
  /-- the base point's y-coordinate -/
  gy : Nat
  /-- the order of the base point -/
  n : Nat
  deriving DecidableEq, Repr

/-- The parameters a model takes as arguments (R8): OPW, DMEM_BYTES and CURVE. No step changes them (R118, R703). -/
structure Config where
  /-- OPW, the width of an operand register in bits -/
  opw : Nat
  /-- DMEM_BYTES, the size of the data memory in bytes -/
  dmemBytes : Nat
  /-- CURVE -/
  curve : Curve
  deriving DecidableEq, Repr

namespace Config

/-- NIST P-256, the default curve (R450; the values are the spec's, which marks them as general knowledge). -/
def p256 : Curve where
  p := 0xFFFFFFFF00000001000000000000000000000000FFFFFFFFFFFFFFFFFFFFFFFF
  a := 0xFFFFFFFF00000001000000000000000000000000FFFFFFFFFFFFFFFFFFFFFFFC
  b := 0x5AC635D8AA3A93E7B3EBBD55769886BC651D06B0CC53B0F63BCE3C3E27D2604B
  gx := 0x6B17D1F2E12C4247F8BCE6E563A440F277037D812DEB33A0F4A13945D898C296
  gy := 0x4FE342E2FE1A7F9B8EE7EB4A7C0F9E162BCE33576B315ECECBB6406837BF51F5
  n := 0xFFFFFFFF00000000FFFFFFFFFFFFFFFFBCE6FAADA7179E84F3B9CAC2FC632551

/-- The test curve TOY97 (R451). -/
def toy97 : Curve where
  p := 97
  a := 2
  b := 14
  gx := 3
  gy := 12
  n := 101

/-- CFG-D, the defaults of R8. -/
def default : Config where
  opw := 2048
  dmemBytes := 65536
  curve := p256

/-- CFG-T, the configuration of the hand-checkable vectors (95_test_vectors.md section 0). -/
def test : Config where
  opw := 256
  dmemBytes := 1024
  curve := toy97

/-- SCALAR_BITS, the bits scanned by scalar multiplication (R8, R459). -/
def scalarBits : Nat := 256

/-- MR_ROUNDS_DEFAULT, the Miller–Rabin rounds when none is given (R8, R512). -/
def mrRoundsDefault : Nat := 5

/-- SMALL_PRIMES, the trial-division primes in their order (R8, R510). -/
def smallPrimes : List Nat := [2, 3, 5, 7, 11, 13, 17, 19, 23, 29]

/-- RSA_E, the fixed public exponent (R8, R516). -/
def rsaE : Nat := 65537

/-- RSA_BITS_DEFAULT, the modulus size recommended to host software (R8). The core takes the size as an operand. -/
def rsaBitsDefault : Nat := 2048

/-- KEY_BYTES, the Salsa20 key size (R8). -/
def keyBytes : Nat := 32

/-- NONCE_BYTES, the Salsa20 nonce size (R8). -/
def nonceBytes : Nat := 8

/-- BLOCK_BYTES, the Salsa20 block size (R8). -/
def blockBytes : Nat := 64

/-- SIGMA0, word 0 of a Salsa20 block input (R8, R558). -/
def sigma0 : Word := 0x61707865#32
/-- SIGMA1, word 5 of a Salsa20 block input (R8, R558). -/
def sigma1 : Word := 0x3320646e#32
/-- SIGMA2, word 10 of a Salsa20 block input (R8, R558). -/
def sigma2 : Word := 0x79622d32#32
/-- SIGMA3, word 15 of a Salsa20 block input (R8, R558). -/
def sigma3 : Word := 0x6b206574#32

/-- How many prime candidates the model examines in one sequencer step, before the search is left pending for the next
one (entry 9). Scheduling only: no result depends on it. DESIGN CHOICE. -/
def searchBudget : Nat := 64

/-- FREE VALUE: the random source's answer to draw number `i`, where the state lists none (R13, entry 8). -/
opaque randomAnswer : Nat → Nat

/-- FREE VALUE: the word a host read of a window returns while BUSY = 1 (R207, entry 7); the argument is the stamp. -/
opaque busyWord : Nat → Word

/-- FREE VALUE: word `w` of an operand register of which only another word has been written since reset (R203, entry 6);
the first argument is the stamp. -/
opaque unwrittenWord : Nat → Nat → Word

/-- FREE VALUE: the byte a command reads at a DMEM offset not written since reset (R205, R609, entry 5); the first
argument is the stamp, the second the offset. -/
opaque unwrittenByte : Nat → Nat → Byte

/-- FREE VALUE: what DMEMK, bits 31:16 of CAPS, reads where DMEM_BYTES/1024 is 65536 and does not fit it: R112 does not
say. DESIGN CHOICE (entry 22). -/
opaque capsDmemkTooLarge : BitVec 16

end Config
end Sys2Proof
end

