-- ==== Sys2Proof/Machine/State.lean ====
section
/-! DEFINITION. The state of the core (10_state.md), as plain data: the registers of the register page, the operand registers
with their written marks, DMEM, the recorded model fault, and the environment's pending inputs (the agenda of events, the
random source's answers). -/

namespace Sys2Proof.Machine

open Sys2Proof

/-- The error codes of R600, without OK. A command error is a completed command (a next state), never a fault. -/
inductive ErrCode where
  /-- 0x01: decoding (R601). -/
  | illegalOpcode
  /-- 0x02: operand fields (R602). -/
  | illegalOperand
  /-- 0x03: key or nonce length (R603). -/
  | badLength
  /-- 0x04: a region outside DMEM (R604). -/
  | memRange
  /-- 0x05: an operand value outside its domain (R605). -/
  | operandRange
  /-- 0x06: the inverse of a non-invertible element (R606). -/
  | noInverse
  /-- 0x07: a degenerate shared secret or p = q (R607). -/
  | degenerate
  deriving DecidableEq, Repr

/-- The fields of STATUS (R107). BUSY is also the sequencer's phase (R115). Bits 31:6 are reserved and not stored. -/
structure Status where
  /-- bit 0: 1 from acceptance of a command until its completion -/
  busy : Bool
  /-- bit 1: a command has completed -/
  done : Bool
  /-- bit 2: a command has completed with ERRCODE ≠ 0 -/
  err : Bool
  /-- bit 3, sticky: a CMD write was dropped -/
  ovr : Bool
  /-- bit 4, sticky: a host write was dropped -/
  haz : Bool
  /-- bit 5, sticky: an unsupported host access -/
  buserr : Bool
  deriving DecidableEq, Repr

/-- An operand register (R100) with its written mark (R101, R117). -/
structure Operand where
  /-- the unsigned integer the register holds, below 2^OPW -/
  value : Nat
  /-- written since the last reset -/
  written : Bool
  deriving DecidableEq, Repr

/-- The ten descriptor registers (R105, R113, R114). -/
structure Descriptors where
  /-- ADDR_A, offset 0x020 -/
  addrA : Word
  /-- LEN_A, offset 0x024 -/
  lenA : Word
  /-- ADDR_B, offset 0x028 -/
  addrB : Word
  /-- LEN_B, offset 0x02C -/
  lenB : Word
  /-- ADDR_K, offset 0x030 -/
  addrK : Word
  /-- LEN_K, offset 0x034 -/
  lenK : Word
  /-- ADDR_N, offset 0x038 -/
  addrN : Word
  /-- LEN_N, offset 0x03C -/
  lenN : Word
  /-- ADDR_D, offset 0x040 -/
  addrD : Word
  /-- LEN_D, offset 0x044; the only one a command writes (R114) -/
  lenD : Word
  deriving DecidableEq, Repr

/-- DMEM as the list of the bytes written since reset, addresses strictly rising (R205). -/
abbrev Memory := List Host.Cell

/-- The random source (R13): the answers it is about to give, and how many it has given. -/
structure RandomSource where
  /-- the answers to the next draws, first one first; once used up, draw `i` is answered by `Config.randomAnswer i` -/
  answers : List Nat
  /-- the number of draws answered so far -/
  drawn : Nat
  deriving DecidableEq, Repr

/-- A host access at a byte offset from the core's base (R200, R202). `bits` is its width. -/
inductive HostAccess where
  /-- a read -/
  | read (bits : Nat) (offset : Word)
  /-- a write of `data` -/
  | write (bits : Nat) (offset data : Word)
  deriving DecidableEq, Repr

/-- An event of the interleaving of R214. Command acceptance is part of the host's CMD write (R400). -/
inductive Event where
  /-- the host's next access -/
  | host (a : HostAccess)
  /-- the sequencer takes its step, if it is busy (R401) -/
  | sequencer
  /-- the platform asserts rst (R700) -/
  | rst
  deriving DecidableEq, Repr

/-- The state of the machine. -/
structure State where
  /-- OPW, DMEM_BYTES and CURVE: configuration, never written (R8, R118; entry 1) -/
  cfg : Config
  /-- x0 … x31 (R100) -/
  x : Vector Operand 32
  /-- DMEM (R205) -/
  dmem : Memory
  /-- CMD (R106); while busy, the held command (R115) -/
  cmd : Word
  /-- STATUS (R107) -/
  status : Status
  /-- ERRCODE bits 7:0 (R108) -/
  errcode : BitVec 8
  /-- CTRL.IE (R109) -/
  ie : Bool
  /-- INF.TAG (R110) -/
  tag : BitVec 16
  /-- OSEL.SEL (R111) -/
  osel : Reg
  /-- the descriptor registers (R113, R114) -/
  desc : Descriptors
  /-- UNWRITTEN_READ has been recorded in this run (R609; entry 4) -/
  unwrittenRead : Bool
  /-- MODEL: what the latest host read returned, `none` where the model returns no value (entry 11) -/
  readData : Option Word
  /-- MODEL: the random source's answers (R13; entry 8) -/
  rng : RandomSource
  /-- MODEL: the number of free values used (entry 12) -/
  stamp : Nat
  /-- MODEL: sequencer steps that left the held command's prime search pending (R621; entry 9) -/
  attempts : Nat
  /-- MODEL: the events to come, in the order of the interleaving (R214; entry 10) -/
  agenda : List Event
  deriving DecidableEq, Repr

/-- The reasons for which the machine could stop with a fault: none. The spec has no stuck state (R622, O20); a command
error is a completion (R600), a bus error a sticky bit (R202), and UNWRITTEN_READ is recorded in the state (R609, entry
4). Nothing raises a fault. -/
inductive Fault where
  deriving DecidableEq, Repr

/-- The reasons for which the machine refuses to step. -/
inductive Refusal where
  /-- Raised by an arm of `exec` whose instruction has no meaning yet: no arm is left. Safe. -/
  | notModelled (mnemonic : String)
  /-- Raised by `step` before any event when the configuration does not meet R8 and R9 ("A model should refuse any other
  configuration"). Safe. -/
  | illFormedConfiguration
  deriving DecidableEq, Repr

/-- STATUS after reset: IDLE and every flag 0 (R107, R119). -/
def Status.reset : Status where
  busy := false
  done := false
  err := false
  ovr := false
  haz := false
  buserr := false

/-- The descriptor registers after reset (R105, R119). -/
def Descriptors.reset : Descriptors where
  addrA := 0#32
  lenA := 0#32
  addrB := 0#32
  lenB := 0#32
  addrK := 0#32
  lenK := 0#32
  addrN := 0#32
  lenN := 0#32
  addrD := 0#32
  lenD := 0#32

/-- An operand register after reset: not written (R101, R119). Its contents are unspecified there; the model's value 0 is
a DESIGN CHOICE, unsafe (entry 3). -/
def Operand.reset : Operand where
  value := 0
  written := false

/-- The state after HardwareReset (R119, R700) in the default configuration CFG-D, at the start of a run: no event
pending, no random answer listed, no model fault recorded (entries 8 to 13). -/
def State.reset : State where
  cfg := Config.default
  x := Vector.replicate 32 Operand.reset
  dmem := []
  cmd := 0#32
  status := Status.reset
  errcode := 0#8
  ie := false
  tag := 0#16
  osel := 0
  desc := Descriptors.reset
  unwrittenRead := false
  readData := none
  rng := ⟨[], 0⟩
  stamp := 0
  attempts := 0
  agenda := []

end Sys2Proof.Machine
end

