-- ==== Sys2Proof/Machine/Flags.lean ====
section
/-! DEFINITION. The only flags of the core (10_state.md R116): STATUS, ERRCODE, and the interrupt computed from them. -/

namespace Sys2Proof.Machine

open Sys2Proof

/-- The number of an error code in ERRCODE[7:0] (R600). -/
def ErrCode.code : ErrCode → BitVec 8
  | .illegalOpcode => 0x01#8
  | .illegalOperand => 0x02#8
  | .badLength => 0x03#8
  | .memRange => 0x04#8
  | .operandRange => 0x05#8
  | .noInverse => 0x06#8
  | .degenerate => 0x07#8

/-- STATUS as the host reads it: bits 5:0 the fields, bits 31:6 zero (R107). -/
def Status.toWord (t : Status) : Word :=
  BitVec.ofNat 32 (t.busy.toNat + 2 * t.done.toNat + 4 * t.err.toNat + 8 * t.ovr.toNat + 16 * t.haz.toNat
    + 32 * t.buserr.toNat)

/-- A host write of `w` to STATUS: writing 1 clears DONE, ERR, OVR, HAZ or BUSERR, writing 0 does nothing, BUSY is
read-only (R107). -/
def Status.writeOneToClear (t : Status) (w : Word) : Status where
  busy := t.busy
  done := t.done && !w.getLsbD 1
  err := t.err && !w.getLsbD 2
  ovr := t.ovr && !w.getLsbD 3
  haz := t.haz && !w.getLsbD 4
  buserr := t.buserr && !w.getLsbD 5

/-- Acceptance sets BUSY and clears DONE and ERR; OVR, HAZ and BUSERR stay (R107, R400). -/
def Status.accept (t : Status) : Status := { t with busy := true, done := false, err := false }

/-- Completion clears BUSY, sets DONE, and sets ERR to whether the code is not OK (R107, R401). -/
def Status.complete (t : Status) (failed : Bool) : Status := { t with busy := false, done := true, err := failed }

/-- The interrupt output: irq = CTRL.IE AND STATUS.DONE (R610). -/
def State.irq (s : State) : Bool := s.ie && s.status.done

end Sys2Proof.Machine
end

