-- ==== Sys2Proof/Machine/Ops.lean ====
section
/-! DEFINITION. The named operations over memory and registers, the two resets, acceptance, and the ONE way in which every
command ends: completion with its writes, or with an error code and no write (40_control.md R400, R401; 60_exceptions.md
R600; the core has no trap entry, R611). -/

namespace Sys2Proof.Machine

open Sys2Proof

/-! ### DMEM -/

/-- What a DMEM byte that nothing has written since reset holds: no value (R205; entry 5). -/
def Memory.unlisted : Option Byte := none

/-- The byte at an offset, if it has been written since reset (R205). -/
def Memory.read : Memory → Nat → Option Byte
  | [], _ => Memory.unlisted
  | (k, v) :: m, a => if k = a then some v else Memory.read m a

/-- Store one byte, keeping the addresses strictly rising. -/
def Memory.write : Memory → Nat → Byte → Memory
  | [], a, b => [(a, b)]
  | (k, v) :: m, a, b =>
    if a < k then (a, b) :: (k, v) :: m
    else if a = k then (a, b) :: m
    else (k, v) :: Memory.write m a b

/-- MemWrite(a, n, s): byte i of the string goes to offset a + i (R205). -/
def Memory.writeBytes (m : Memory) (a : Nat) : List Byte → Memory
  | [] => m
  | b :: s => Memory.writeBytes (Memory.write m a b) (a + 1) s

/-- The canonical form: addresses strictly rising. (An unlisted byte has no value, so no entry equals what an unlisted
address reads as.) -/
def Memory.wf : Memory → Bool
  | [] => true
  | [_] => true
  | (k, _) :: (k', v') :: m => decide (k < k') && Memory.wf ((k', v') :: m)

/-- A region (ADDR_X, L) that a command names (R206). -/
structure Region where
  /-- the byte offset -/
  addr : Nat
  /-- the number of bytes -/
  len : Nat
  deriving DecidableEq, Repr

/-- The region check of R206: ADDR + L ≤ DMEM_BYTES, an unbounded sum. -/
def State.fits (s : State) (r : Region) : Bool := decide (r.addr + r.len ≤ s.cfg.dmemBytes)

/-- The byte a command reads at a DMEM offset: the byte written there, else a free value (R205, R609; entry 5). -/
def State.byteAt (s : State) (a : Nat) : Byte := (s.dmem.read a).getD (Config.unwrittenByte s.stamp a)

/-- MemRead over a region (R205). -/
def State.memRead (s : State) (r : Region) : List Byte := (List.range r.len).map fun i => s.byteAt (r.addr + i)

/-- Every byte of the region has been written since reset. -/
def State.regionWritten (s : State) (r : Region) : Bool :=
  (List.range r.len).all fun i => (s.dmem.read (r.addr + i)).isSome

/-- What reading the regions leaves behind: UNWRITTEN_READ is recorded if a byte of them was not written (R205, R609),
and the free values then used are used up. -/
def State.noteMem (s : State) (rs : List Region) : State :=
  if rs.all s.regionWritten then s else { s with unwrittenRead := true, stamp := s.stamp + 1 }

/-- Store a command's output string at ADDR_D and its length in LEN_D (R114). -/
def State.storeOutput (s : State) (out : List Byte) : State :=
  { s with
    dmem := s.dmem.writeBytes s.desc.addrD.toNat out
    desc := { s.desc with lenD := BitVec.ofNat 32 out.length } }

/-! ### Operand registers -/

/-- x[i], the integer register i holds (R100). -/
def State.reg (s : State) (r : Reg) : Nat := s.x[r.val].value

/-- Register i has been written since the last reset (R101, R117). -/
def State.written (s : State) (r : Reg) : Bool := s.x[r.val].written

/-- x[i] <- v (R100); the register counts as written. -/
def State.setReg (s : State) (r : Reg) (v : Nat) : State := { s with x := s.x.set r.val ⟨v, true⟩ }

/-- What reading the registers leaves behind: UNWRITTEN_READ is recorded if one of them was not written (R101, R609). -/
def State.noteRegs (s : State) (rs : List Reg) : State :=
  { s with unwrittenRead := s.unwrittenRead || rs.any fun r => !s.written r }

/-! ### Reset -/

/-- HardwareReset (R700): phase IDLE, the register page at its reset values, every operand register and DMEM byte not
written; a command held in phase BUSY is abandoned (R702). The configuration and the random source are untouched (R703),
and so are the model's own record and environment fields (entry 13). A soft reset has exactly this effect (R701). -/
def State.hardwareReset (s : State) : State :=
  { s with
    x := Vector.replicate 32 Operand.reset
    dmem := []
    cmd := 0#32
    status := Status.reset
    errcode := 0#8
    ie := false
    tag := 0#16
    osel := 0
    desc := Descriptors.reset
    attempts := 0 }

/-! ### The command cycle -/

/-- Acceptance of the command word w (R400). -/
def State.accept (s : State) (w : Word) : State :=
  { s with cmd := w, status := s.status.accept, errcode := 0#8, attempts := 0 }

/-- What Execute(w) answers (R401, R402). -/
inductive CmdResult where
  /-- success: the state with every destination write committed -/
  | commit (s : State)
  /-- `raise E`: the state with no destination written, but the draws made so far consumed and reads recorded (R600) -/
  | raise (e : ErrCode) (s : State)
  /-- the prime search has not ended within the model's budget: the command's one step is not taken yet (R621, entry 9) -/
  | searching

/-- The end of a command (R401): phase IDLE, DONE, ERR as told, and the code in ERRCODE. -/
def State.finish (t : State) (failed : Bool) (code : BitVec 8) : State :=
  { t with status := t.status.complete failed, errcode := code, attempts := 0 }

/-- Completion (R401): commit or discard the writes, report the code, and leave phase BUSY. A command whose prime search
is still pending stays BUSY with nothing written and no draw made (R621, R702). -/
def State.settle (s : State) : CmdResult → State
  | .commit t => t.finish false 0#8
  | .raise e t => t.finish true e.code
  | .searching => { s with attempts := s.attempts + 1 }

/-- The step of a command from state `s` (R401): it always leads to a next state (R622: no stuck state). -/
def conclude (s : State) (r : CmdResult) : Host.Outcome State Fault Refusal := .next (s.settle r)

end Sys2Proof.Machine
end

