-- ==== Sys2Proof/Machine/Inverse.lean ====
section
/-! DEFINITION. The modular inverse and MOD_INV (42_modular_inverse.md). -/

namespace Sys2Proof.Machine

open Sys2Proof

/-- The loop of R430: the iterative extended Euclidean algorithm on (r0, r1, t0, t1), answering the last (r0, t0). The fuel
bounds the number of turns; the remainder r1 falls in each, so r1 turns always suffice. -/
def euclid : Nat → Nat → Nat → Int → Int → Nat × Int
  | 0, r0, _, t0, _ => (r0, t0)
  | fuel + 1, r0, r1, t0, t1 =>
    if r1 = 0 then (r0, t0)
    else euclid fuel r1 (r0 - r0 / r1 * r1) t1 (t0 - (r0 / r1 : Nat) * t1)

/-- ModInv(a, m) for m ≥ 1 (R430); `none` is NO_INVERSE. A negative `a` is reduced mod m first (R454). -/
def modInv (a : Int) (m : Nat) : Option Nat :=
  if m = 1 then some 0
  else
    match euclid m m (a % m).toNat 0 1 with
    | (g, t) => if g = 1 then some (t % m).toNat else none

/-- CmdModInv (R431). -/
def cmdModInv (rd ra rc : Reg) (s : State) : CmdResult :=
  let a := s.reg ra
  let m := s.reg rc
  let s := s.noteRegs [ra, rc]
  if m = 0 then .raise .operandRange s
  else
    match modInv a m with
    | none => .raise .noInverse s
    | some v => .commit (s.setReg rd v)

/-- MOD_INV (R431). -/
def execModInv (rd ra rc : Reg) (s : State) : Host.Outcome State Fault Refusal := conclude s (cmdModInv rd ra rc s)

end Sys2Proof.Machine
end

