-- ==== Sys2Proof/Syntax.lean ====
section
/-! DEFINITION. The commands: one constructor per row of the opcode map (30_encoding.md R302), with the fields the row
uses, in the order RD, RA, RB, RC, AUX. A pair field holds its register number, which may be odd (R303, R602). -/

namespace Sys2Proof

/-- A decoded command word: a row of the opcode map with its fields. -/
inductive Instr where
  /-- NOP (R405). -/
  | nop
  /-- MONT_MUL xd, xa, xb, xm (R411). -/
  | montMul (rd ra rb rc : Reg)
  /-- MOD_MUL xd, xa, xb, xm (R413). -/
  | modMul (rd ra rb rc : Reg)
  /-- MOD_EXP xd, xbase, xexp, xm (R415). -/
  | modExp (rd ra rb rc : Reg)
  /-- MOD_INV xd, xa, xm (R431). -/
  | modInv (rd ra rc : Reg)
  /-- EC_ADD pair d, pair a, pair b (R460). -/
  | ecAdd (rd ra rb : Reg)
  /-- EC_DBL pair d, pair a (R462). -/
  | ecDbl (rd ra : Reg)
  /-- EC_SMUL pair d, xk, pair b (R464). -/
  | ecSmul (rd ra rb : Reg)
  /-- EC_ON_CURVE xd, pair a (R458). -/
  | ecOnCurve (rd ra : Reg)
  /-- EG_KEYGEN xd, pair b (R481). -/
  | egKeygen (rd rb : Reg)
  /-- EG_ENC pair d, pair a, xb, xc (R483). -/
  | egEnc (rd ra rb rc : Reg)
  /-- EG_DEC xd, xa, pair b, xc (R485). -/
  | egDec (rd ra rb rc : Reg)
  /-- RSA_PRIME_TEST xd, xa, #rounds (R512). -/
  | rsaPrimeTest (rd ra : Reg) (aux : Fin 16)
  /-- RSA_GEN_PRIME xd, xa (R515). -/
  | rsaGenPrime (rd ra : Reg)
  /-- RSA_KEYGEN xn, xa, xd, xe (R518). -/
  | rsaKeygen (rd ra rb rc : Reg)
  /-- RSA_SIGN xa, xb (R522). -/
  | rsaSign (ra rb : Reg)
  /-- RSA_VERIFY xd, xa, xb (R525). -/
  | rsaVerify (rd ra rb : Reg)
  /-- SALSA_QR (R553). -/
  | salsaQr
  /-- SALSA_BLOCK (R556). -/
  | salsaBlock
  /-- SALSA_KS (R560). -/
  | salsaKs
  /-- SALSA_XOR (R562). -/
  | salsaXor
  /-- OFB_ENC (R591). -/
  | ofbEnc
  /-- OFB_DEC (R593). -/
  | ofbDec
  deriving DecidableEq, Repr

end Sys2Proof
end

