-- ==== Sys2Proof/WellFormed.lean ====
section
/-! DEFINITION. When a command's operand fields are legal (60_exceptions.md R602): pair fields are even and destinations
do not overlap. An ill-formed command still has an encoding and decodes (R303); its meaning raises ILLEGAL_OPERAND. -/

namespace Sys2Proof

/-- A pair field must hold an even register number (R103, R301). -/
abbrev Reg.isEven (r : Reg) : Bool := r.val % 2 == 0

/-- Register `r` is one of the two registers of the pair that the even number `q` names. -/
abbrev Reg.inPairOf (r q : Reg) : Bool := r.val == q.val || r.val == q.val + 1

/-- The operand-field checks of R602, command by command. -/
def Instr.wellFormed : Instr → Bool
  | .nop => true
  | .montMul _ _ _ _ => true
  | .modMul _ _ _ _ => true
  | .modExp _ _ _ _ => true
  | .modInv _ _ _ => true
  | .ecAdd rd ra rb => Reg.isEven rd && Reg.isEven ra && Reg.isEven rb
  | .ecDbl rd ra => Reg.isEven rd && Reg.isEven ra
  | .ecSmul rd _ rb => Reg.isEven rd && Reg.isEven rb
  | .ecOnCurve _ ra => Reg.isEven ra
  | .egKeygen rd rb => Reg.isEven rb && !Reg.inPairOf rd rb
  | .egEnc rd ra _ rc => Reg.isEven rd && Reg.isEven ra && !Reg.inPairOf rc rd
  | .egDec _ _ rb _ => Reg.isEven rb
  | .rsaPrimeTest _ _ _ => true
  | .rsaGenPrime _ _ => true
  | .rsaKeygen rd _ rb rc => decide (rd ≠ rb) && decide (rd ≠ rc) && decide (rb ≠ rc)
  | .rsaSign _ _ => true
  | .rsaVerify _ _ _ => true
  | .salsaQr => true
  | .salsaBlock => true
  | .salsaKs => true
  | .salsaXor => true
  | .ofbEnc => true
  | .ofbDec => true

end Sys2Proof
end

