-- ==== Sys2Proof/Machine/Operands.lean ====
section
/-! DEFINITION. The operand forms of commands: points in operand pairs with their identity tag (10_state.md R103), DMEM regions
named by the descriptors (20_memory.md R206), and the answers of the random source (00_scope.md R13). -/

namespace Sys2Proof.Machine

open Sys2Proof

/-! ### Points -/

/-- A point of the curve group: the identity O, or a coordinate pair (R103, R450). -/
inductive Point where
  /-- O, the point at infinity -/
  | identity
  /-- a finite point -/
  | affine (x y : Nat)
  deriving DecidableEq, Repr

/-- The pair j = r/2 that a pair field r = 2j names (R103). -/
def pairOf (r : Reg) : Pair := ⟨r.val / 2, by omega⟩

/-- The register of a pair's x-coordinate, x[2j] (R103). -/
def pairX (j : Pair) : Reg := ⟨2 * j.val, by omega⟩

/-- The register of a pair's y-coordinate, x[2j+1] (R103). -/
def pairY (j : Pair) : Reg := ⟨2 * j.val + 1, by omega⟩

/-- INF.TAG[j] (R103, R110). -/
def State.isIdentity (s : State) (j : Pair) : Bool := s.tag.getLsbD j.val

/-- INF.TAG[j] <- b, every other tag as it was (R103, R104). -/
def setTag (tag : BitVec 16) (j : Pair) (b : Bool) : BitVec 16 :=
  if b then tag ||| (1#16 <<< j.val) else tag &&& ~~~(1#16 <<< j.val)

/-- ReadPoint(j) (R103). -/
def State.readPoint (s : State) (j : Pair) : Point :=
  if s.isIdentity j then .identity else .affine (s.reg (pairX j)) (s.reg (pairY j))

/-- What ReadPoint(j) leaves behind: the coordinate registers are read only where the tag is 0 (R103, R609). -/
def State.notePoint (s : State) (j : Pair) : State :=
  if s.isIdentity j then s else s.noteRegs [pairX j, pairY j]

/-- WritePoint(j, P) (R103). -/
def State.writePoint (s : State) (j : Pair) : Point → State
  | .identity => { (s.setReg (pairX j) 0).setReg (pairY j) 0 with tag := setTag s.tag j true }
  | .affine x y => { (s.setReg (pairX j) x).setReg (pairY j) y with tag := setTag s.tag j false }

/-- CheckPoint(P): the coordinates of a finite point lie in [0, p) (R452). -/
def Point.inRange (c : Curve) : Point → Bool
  | .identity => true
  | .affine x y => decide (x < c.p) && decide (y < c.p)

/-! ### Regions named by the descriptors -/

/-- (ADDR_A, n) (R206). -/
def State.regionA (s : State) (n : Nat) : Region := ⟨s.desc.addrA.toNat, n⟩
/-- (ADDR_B, n) (R206). -/
def State.regionB (s : State) (n : Nat) : Region := ⟨s.desc.addrB.toNat, n⟩
/-- (ADDR_K, n) (R206). -/
def State.regionK (s : State) (n : Nat) : Region := ⟨s.desc.addrK.toNat, n⟩
/-- (ADDR_N, n) (R206). -/
def State.regionN (s : State) (n : Nat) : Region := ⟨s.desc.addrN.toNat, n⟩
/-- (ADDR_D, n) (R206). -/
def State.regionD (s : State) (n : Nat) : Region := ⟨s.desc.addrD.toNat, n⟩

/-- The key and nonce lengths are 32 and 8 (R603). -/
def State.lengthsOk (s : State) : Bool :=
  decide (s.desc.lenK.toNat = Config.keyBytes) && decide (s.desc.lenN.toNat = Config.nonceBytes)

/-! ### Draws -/

/-- The random source's next answer, before it is placed in the requested range (R13; entry 8). -/
def RandomSource.answer (g : RandomSource) : Nat × RandomSource :=
  match g.answers with
  | [] => (Config.randomAnswer g.drawn, ⟨[], g.drawn + 1⟩)
  | a :: rest => (a, ⟨rest, g.drawn + 1⟩)

/-- An answer placed in [lo, hi]: itself where it lies there, else reduced into it (R13: "A draw's value is never out of
range"; entry 8). -/
def intoRange (lo hi a : Nat) : Nat := if lo ≤ a ∧ a ≤ hi then a else lo + a % (hi - lo + 1)

/-- draw Range(lo, hi): an integer in [lo, hi], for lo ≤ hi (R13). -/
def RandomSource.drawRange (lo hi : Nat) (g : RandomSource) : Nat × RandomSource :=
  match g.answer with
  | (a, g') => (intoRange lo hi a, g')

/-- draw Bits(k): an integer in [0, 2^k) (R13). -/
def RandomSource.drawBits (k : Nat) (g : RandomSource) : Nat × RandomSource :=
  match g.answer with
  | (a, g') => (a % 2 ^ k, g')

/-- The random source after a command's draws (R13, R403). -/
def State.setRng (s : State) (g : RandomSource) : State := { s with rng := g }

end Sys2Proof.Machine
end

