-- ==== Sys2Proof/Machine/EcGroup.lean ====
section
/-! DEFINITION. The elliptic-curve group family: EC_ON_CURVE, EC_ADD, EC_DBL, EC_SMUL (43_ec_group.md). Arithmetic is on
mathematical integers, each coordinate and slope reduced mod p (R457). -/

namespace Sys2Proof.Machine

open Sys2Proof

/-- IsOnCurve(P) (R453). -/
def isOnCurve (c : Curve) : Point → Bool
  | .identity => true
  | .affine x y => decide (((y * y : Int) - (x * x * x + c.a * x + c.b)) % c.p = 0)

/-- lam: the tangent slope where the points agree, else the secant slope (R454, R456); `none` is NO_INVERSE. -/
def chordSlope (c : Curve) (x1 y1 x2 y2 : Nat) : Option Nat :=
  if x1 = x2 then
    (modInv (2 * y1) c.p).map fun i => ((3 * x1 * x1 + c.a) * i) % c.p
  else
    (modInv ((x2 : Int) - x1) c.p).map fun i => ((((y2 : Int) - y1) * i) % c.p).toNat

/-- PointAdd(P1, P2) (R454); `none` is NO_INVERSE. -/
def pointAdd (c : Curve) : Point → Point → Option Point
  | .identity, q => some q
  | .affine x y, .identity => some (.affine x y)
  | .affine x1 y1, .affine x2 y2 =>
    if x1 = x2 ∧ y1 ≠ y2 then some .identity
    else
      match chordSlope c x1 y1 x2 y2 with
      | none => none
      | some lam =>
        let x3 : Nat := (((lam * lam : Int) - x1 - x2) % c.p).toNat
        let y3 : Nat := (((lam : Int) * ((x1 : Int) - x3) - y1) % c.p).toNat
        some (.affine x3 y3)

/-- The turns of the double-and-add scan of R459, from bit `i` on: `acc` accumulates, `run` is doubled in every turn,
after the last bit too. `none` is NO_INVERSE. -/
def scan (c : Curve) (k : Nat) : Nat → Nat → Point → Point → Option Point
  | 0, _, acc, _ => some acc
  | n + 1, i, acc, run =>
    match (if k.testBit i then pointAdd c acc run else some acc) with
    | none => none
    | some acc' =>
      match pointAdd c run run with
      | none => none
      | some run' => scan c k n (i + 1) acc' run'

/-- ScalarMult(k, P) (R459); `none` is NO_INVERSE. -/
def scalarMult (c : Curve) (k : Nat) (p : Point) : Option Point := scan c k Config.scalarBits 0 .identity p

/-- The base point G of the curve record (R450). -/
def basePoint (c : Curve) : Point := .affine c.gx c.gy

/-- End an EC command whose result is a point for pair j: write it, or raise NO_INVERSE. -/
def writeResult (j : Pair) (s : State) : Option Point → CmdResult
  | none => .raise .noInverse s
  | some p => .commit (s.writePoint j p)

/-- CmdEcOnCurve (R458). -/
def cmdEcOnCurve (rd ra : Reg) (s : State) : CmdResult :=
  if !Reg.isEven ra then .raise .illegalOperand s
  else
    let p := s.readPoint (pairOf ra)
    let s := s.notePoint (pairOf ra)
    if !p.inRange s.cfg.curve then .raise .operandRange s
    else .commit (s.setReg rd (isOnCurve s.cfg.curve p).toNat)

/-- CmdEcAdd (R460). -/
def cmdEcAdd (rd ra rb : Reg) (s : State) : CmdResult :=
  if !(Reg.isEven rd && Reg.isEven ra && Reg.isEven rb) then .raise .illegalOperand s
  else
    let p1 := s.readPoint (pairOf ra)
    let p2 := s.readPoint (pairOf rb)
    let s := (s.notePoint (pairOf ra)).notePoint (pairOf rb)
    if !(p1.inRange s.cfg.curve && p2.inRange s.cfg.curve) then .raise .operandRange s
    else writeResult (pairOf rd) s (pointAdd s.cfg.curve p1 p2)

/-- CmdEcDbl (R462). -/
def cmdEcDbl (rd ra : Reg) (s : State) : CmdResult :=
  if !(Reg.isEven rd && Reg.isEven ra) then .raise .illegalOperand s
  else
    let p := s.readPoint (pairOf ra)
    let s := s.notePoint (pairOf ra)
    if !p.inRange s.cfg.curve then .raise .operandRange s
    else writeResult (pairOf rd) s (pointAdd s.cfg.curve p p)

/-- CmdEcSmul (R464). -/
def cmdEcSmul (rd ra rb : Reg) (s : State) : CmdResult :=
  if !(Reg.isEven rd && Reg.isEven rb) then .raise .illegalOperand s
  else
    let k := s.reg ra
    let p := s.readPoint (pairOf rb)
    let s := (s.noteRegs [ra]).notePoint (pairOf rb)
    if !p.inRange s.cfg.curve then .raise .operandRange s
    else if k ≥ 2 ^ Config.scalarBits then .raise .operandRange s
    else writeResult (pairOf rd) s (scalarMult s.cfg.curve k p)

/-- EC_ON_CURVE (R458). -/
def execEcOnCurve (rd ra : Reg) (s : State) : Host.Outcome State Fault Refusal := conclude s (cmdEcOnCurve rd ra s)

/-- EC_ADD (R460). -/
def execEcAdd (rd ra rb : Reg) (s : State) : Host.Outcome State Fault Refusal := conclude s (cmdEcAdd rd ra rb s)

/-- EC_DBL (R462). -/
def execEcDbl (rd ra : Reg) (s : State) : Host.Outcome State Fault Refusal := conclude s (cmdEcDbl rd ra s)

/-- EC_SMUL (R464). -/
def execEcSmul (rd ra rb : Reg) (s : State) : Host.Outcome State Fault Refusal := conclude s (cmdEcSmul rd ra rb s)

end Sys2Proof.Machine
end

