-- ==== Sys2Proof/Machine/Admission.lean ====
section
/-! DEFINITION. Which configurations the model admits (00_scope.md R8, R9): any other is refused before any step (R622). -/

namespace Sys2Proof.Machine

open Sys2Proof

/-- The domains of OPW and DMEM_BYTES (R8). -/
abbrev sizesOk (c : Config) : Prop :=
  c.opw % 32 = 0 ∧ 256 ≤ c.opw ∧ c.opw ≤ 32768 ∧ bitlen c.curve.p ≤ c.opw ∧
    c.dmemBytes % 1024 = 0 ∧ 1024 ≤ c.dmemBytes ∧ c.dmemBytes ≤ 67108864

/-- The conditions on the curve record (R9). That Gx and Gy lie in [0, p), the range of every finite point (R452), is
DEDUCED (entry 2). -/
abbrev curveOk (c : Curve) : Prop :=
  c.p.Prime ∧ c.p % 2 = 1 ∧ 3 < c.p ∧ c.a < c.p ∧ c.b < c.p ∧
    (4 * c.a ^ 3 + 27 * c.b ^ 2) % c.p ≠ 0 ∧
    c.gx < c.p ∧ c.gy < c.p ∧ isOnCurve c (basePoint c) = true ∧
    c.n.Prime ∧ 3 ≤ c.n ∧ c.n - 1 < 2 ^ Config.scalarBits ∧
    scalarMult c c.n (basePoint c) = some .identity

/-- A well-formed configuration (R8, R9). -/
abbrev wellFormedConfig (c : Config) : Prop := sizesOk c ∧ curveOk c.curve

/-- The configurations a step admits: the two the spec gives and vouches for (R450, R451), answered without computing, and
every other one that meets R8 and R9. DESIGN CHOICE: the short cut (entry 2). -/
def admitted (c : Config) : Bool := decide (c = Config.default) || decide (c = Config.test) || decide (wellFormedConfig c)

end Sys2Proof.Machine
end

