-- ==== Sys2Proof/Decode.lean ====
section
/-! DEFINITION. The decoder of a command word (30_encoding.md R300 to R304), total on every 32-bit word and rejecting by
name, and the encoder written from the same table. -/

namespace Sys2Proof

/-- Why a word is no command; either way the sequencer raises ILLEGAL_OPCODE (R303, R304, R601). -/
inductive DecodeError where
  /-- OPC is not one of the 23 values of the opcode map (R304). -/
  | unassignedOpcode
  /-- OPC is in the map, and a field that its row reserves is not 0 (R303). -/
  | reservedField
  deriving DecidableEq, Repr

/-- OPC, bits 7:0 (R300). -/
def opcField (w : Word) : Nat := w.toNat % 256
/-- RD, bits 12:8 (R300). -/
def rdField (w : Word) : Reg := ⟨w.toNat / 2 ^ 8 % 32, Nat.mod_lt _ (by decide)⟩
/-- RA, bits 17:13 (R300). -/
def raField (w : Word) : Reg := ⟨w.toNat / 2 ^ 13 % 32, Nat.mod_lt _ (by decide)⟩
/-- RB, bits 22:18 (R300). -/
def rbField (w : Word) : Reg := ⟨w.toNat / 2 ^ 18 % 32, Nat.mod_lt _ (by decide)⟩
/-- RC, bits 27:23 (R300). -/
def rcField (w : Word) : Reg := ⟨w.toNat / 2 ^ 23 % 32, Nat.mod_lt _ (by decide)⟩
/-- AUX, bits 31:28 (R300). -/
def auxField (w : Word) : Fin 16 := ⟨w.toNat / 2 ^ 28 % 16, Nat.mod_lt _ (by decide)⟩

/-- The command of a row whose reserved fields are all 0 (`clear`); otherwise the word is no command (R303). -/
def ifClear (clear : Bool) (i : Instr) : Except DecodeError Instr :=
  if clear then .ok i else .error .reservedField

/-- The opcode map of R302: which command a word is, if any. -/
def decode (w : Word) : Except DecodeError Instr :=
  let d := rdField w
  let a := raField w
  let b := rbField w
  let c := rcField w
  let x := auxField w
  match opcField w with
  | 0x00 => ifClear (d == 0 && a == 0 && b == 0 && c == 0 && x == 0) .nop
  | 0x01 => ifClear (x == 0) (.montMul d a b c)
  | 0x02 => ifClear (x == 0) (.modMul d a b c)
  | 0x03 => ifClear (x == 0) (.modExp d a b c)
  | 0x08 => ifClear (b == 0 && x == 0) (.modInv d a c)
  | 0x10 => ifClear (c == 0 && x == 0) (.ecAdd d a b)
  | 0x11 => ifClear (b == 0 && c == 0 && x == 0) (.ecDbl d a)
  | 0x12 => ifClear (c == 0 && x == 0) (.ecSmul d a b)
  | 0x13 => ifClear (b == 0 && c == 0 && x == 0) (.ecOnCurve d a)
  | 0x18 => ifClear (a == 0 && c == 0 && x == 0) (.egKeygen d b)
  | 0x19 => ifClear (x == 0) (.egEnc d a b c)
  | 0x1A => ifClear (x == 0) (.egDec d a b c)
  | 0x20 => ifClear (b == 0 && c == 0) (.rsaPrimeTest d a x)
  | 0x21 => ifClear (b == 0 && c == 0 && x == 0) (.rsaGenPrime d a)
  | 0x22 => ifClear (x == 0) (.rsaKeygen d a b c)
  | 0x23 => ifClear (d == 0 && c == 0 && x == 0) (.rsaSign a b)
  | 0x24 => ifClear (c == 0 && x == 0) (.rsaVerify d a b)
  | 0x30 => ifClear (d == 0 && a == 0 && b == 0 && c == 0 && x == 0) .salsaQr
  | 0x31 => ifClear (d == 0 && a == 0 && b == 0 && c == 0 && x == 0) .salsaBlock
  | 0x32 => ifClear (d == 0 && a == 0 && b == 0 && c == 0 && x == 0) .salsaKs
  | 0x33 => ifClear (d == 0 && a == 0 && b == 0 && c == 0 && x == 0) .salsaXor
  | 0x38 => ifClear (d == 0 && a == 0 && b == 0 && c == 0 && x == 0) .ofbEnc
  | 0x39 => ifClear (d == 0 && a == 0 && b == 0 && c == 0 && x == 0) .ofbDec
  | _ => .error .unassignedOpcode

/-- The word of R300 from its fields; the fields do not overlap, so their sum is the rule's OR. -/
def assemble (opc : Nat) (rd ra rb rc : Reg) (aux : Fin 16) : Word :=
  BitVec.ofNat 32 (opc + rd.val * 2 ^ 8 + ra.val * 2 ^ 13 + rb.val * 2 ^ 18 + rc.val * 2 ^ 23 + aux.val * 2 ^ 28)

/-- The word of a command: its row's opcode, its fields, and 0 in every reserved field (R302, R303). -/
def encode : Instr → Word
  | .nop => assemble 0x00 0 0 0 0 0
  | .montMul rd ra rb rc => assemble 0x01 rd ra rb rc 0
  | .modMul rd ra rb rc => assemble 0x02 rd ra rb rc 0
  | .modExp rd ra rb rc => assemble 0x03 rd ra rb rc 0
  | .modInv rd ra rc => assemble 0x08 rd ra 0 rc 0
  | .ecAdd rd ra rb => assemble 0x10 rd ra rb 0 0
  | .ecDbl rd ra => assemble 0x11 rd ra 0 0 0
  | .ecSmul rd ra rb => assemble 0x12 rd ra rb 0 0
  | .ecOnCurve rd ra => assemble 0x13 rd ra 0 0 0
  | .egKeygen rd rb => assemble 0x18 rd 0 rb 0 0
  | .egEnc rd ra rb rc => assemble 0x19 rd ra rb rc 0
  | .egDec rd ra rb rc => assemble 0x1A rd ra rb rc 0
  | .rsaPrimeTest rd ra aux => assemble 0x20 rd ra 0 0 aux
  | .rsaGenPrime rd ra => assemble 0x21 rd ra 0 0 0
  | .rsaKeygen rd ra rb rc => assemble 0x22 rd ra rb rc 0
  | .rsaSign ra rb => assemble 0x23 0 ra rb 0 0
  | .rsaVerify rd ra rb => assemble 0x24 rd ra rb 0 0
  | .salsaQr => assemble 0x30 0 0 0 0 0
  | .salsaBlock => assemble 0x31 0 0 0 0 0
  | .salsaKs => assemble 0x32 0 0 0 0 0
  | .salsaXor => assemble 0x33 0 0 0 0 0
  | .ofbEnc => assemble 0x38 0 0 0 0 0
  | .ofbDec => assemble 0x39 0 0 0 0 0

/-- The decoder on a row of the opcode table: the word is one 32-bit command word, its bits above `nbits` zero. -/
def decodeTableWord (nbits w : Nat) : Option Instr :=
  match decode (BitVec.ofNat 32 (w % 2 ^ nbits)) with
  | .ok i => some i
  | .error _ => none

end Sys2Proof
end

