-- ==== Sys2Proof/Machine/Control.lean ====
section
/-! DEFINITION. NOP (40_control.md R405), the held command word the sequencer decodes, and a word that is no command
(60_exceptions.md R601). -/

namespace Sys2Proof.Machine

open Sys2Proof

/-- What the sequencer's step decodes: the held command word, which is CMD (R115, R402). -/
def State.fetch (s : State) : Except DecodeError Instr := decode s.cmd

/-- The step of a word that is no command, for either reason: ILLEGAL_OPCODE, reading and drawing nothing (R601). -/
def illegalWord (_why : DecodeError) (s : State) : Host.Outcome State Fault Refusal :=
  conclude s (.raise .illegalOpcode s)

/-- NOP (R405): nothing but the completion status. -/
def execNop (s : State) : Host.Outcome State Fault Refusal := conclude s (.commit s)

end Sys2Proof.Machine
end

