-- ==== Sys2Proof/Machine/ElGamal.lean ====
section
/-! DEFINITION. The EC-ElGamal family: EG_KEYGEN, EG_ENC, EG_DEC (44_ecc_elgamal.md). -/

namespace Sys2Proof.Machine

open Sys2Proof

/-- CmdEgKeygen (R481). The scan cannot raise for the base point of a well-formed configuration (R455, R481). -/
def cmdEgKeygen (rd rb : Reg) (s : State) : CmdResult :=
  if !Reg.isEven rb then .raise .illegalOperand s
  else if Reg.inPairOf rd rb then .raise .illegalOperand s
  else
    match s.rng.drawRange 1 (s.cfg.curve.n - 1) with
    | (d, g) =>
      let s := s.setRng g
      match scalarMult s.cfg.curve d (basePoint s.cfg.curve) with
      | none => .raise .noInverse s
      | some q => .commit ((s.setReg rd d).writePoint (pairOf rb) q)

/-- The end of CmdEgEnc, once C1 and the shared secret S are known (R483, R484): DEGENERATE when S = O or S.x = 0. -/
def egEncResult (rd rc : Reg) (m : Nat) (c1 : Point) (s : State) : Point → CmdResult
  | .identity => .raise .degenerate s
  | .affine sx _ =>
    if sx = 0 then .raise .degenerate s
    else .commit ((s.writePoint (pairOf rd) c1).setReg rc (m * sx % s.cfg.curve.p))

/-- CmdEgEnc (R483). -/
def cmdEgEnc (rd ra rb rc : Reg) (s : State) : CmdResult :=
  if !(Reg.isEven rd && Reg.isEven ra) then .raise .illegalOperand s
  else if Reg.inPairOf rc rd then .raise .illegalOperand s
  else
    let q := s.readPoint (pairOf ra)
    let m := s.reg rb
    let s := (s.notePoint (pairOf ra)).noteRegs [rb]
    if !q.inRange s.cfg.curve then .raise .operandRange s
    else if m ≥ s.cfg.curve.p then .raise .operandRange s
    else
      match s.rng.drawRange 1 (s.cfg.curve.n - 1) with
      | (k, g) =>
        let s := s.setRng g
        match scalarMult s.cfg.curve k (basePoint s.cfg.curve) with
        | none => .raise .noInverse s
        | some c1 =>
          match scalarMult s.cfg.curve k q with
          | none => .raise .noInverse s
          | some secret => egEncResult rd rc m c1 s secret

/-- The end of CmdEgDec, once the shared secret S is known (R485): DEGENERATE when S = O, NO_INVERSE when S.x = 0. -/
def egDecResult (rd : Reg) (c2 : Nat) (s : State) : Point → CmdResult
  | .identity => .raise .degenerate s
  | .affine sx _ =>
    match modInv sx s.cfg.curve.p with
    | none => .raise .noInverse s
    | some i => .commit (s.setReg rd (c2 * i % s.cfg.curve.p))

/-- CmdEgDec (R485). -/
def cmdEgDec (rd ra rb rc : Reg) (s : State) : CmdResult :=
  if !Reg.isEven rb then .raise .illegalOperand s
  else
    let d := s.reg ra
    let c1 := s.readPoint (pairOf rb)
    let c2 := s.reg rc
    let s := ((s.noteRegs [ra]).notePoint (pairOf rb)).noteRegs [rc]
    if !c1.inRange s.cfg.curve then .raise .operandRange s
    else if d ≥ 2 ^ Config.scalarBits ∨ c2 ≥ s.cfg.curve.p then .raise .operandRange s
    else
      match scalarMult s.cfg.curve d c1 with
      | none => .raise .noInverse s
      | some secret => egDecResult rd c2 s secret

/-- EG_KEYGEN (R481). -/
def execEgKeygen (rd rb : Reg) (s : State) : Host.Outcome State Fault Refusal := conclude s (cmdEgKeygen rd rb s)

/-- EG_ENC (R483). -/
def execEgEnc (rd ra rb rc : Reg) (s : State) : Host.Outcome State Fault Refusal :=
  conclude s (cmdEgEnc rd ra rb rc s)

/-- EG_DEC (R485). -/
def execEgDec (rd ra rb rc : Reg) (s : State) : Host.Outcome State Fault Refusal :=
  conclude s (cmdEgDec rd ra rb rc s)

end Sys2Proof.Machine
end

