-- ==== Sys2Proof/Machine/Montgomery.lean ====
section
/-! DEFINITION. The Montgomery multiplier family: MONT_MUL, MOD_MUL, MOD_EXP (41_montgomery_mult.md). -/

namespace Sys2Proof.Machine

open Sys2Proof

/-- R_MONT = 2^OPW (R8, R410). -/
def montRadix (c : Config) : Nat := 2 ^ c.opw

/-- RInv(m), for an odd m: the r in [0, m) with (R_MONT·r) mod m = 1 mod m (R410). -/
def rInv (c : Config) (m : Nat) : Nat := (modInv (montRadix c) m).getD 0

/-- The turns of modular exponentiation over the bits of `e`, least significant first: `acc · b^e mod m`. -/
def powLoop (m : Nat) : Nat → Nat → Nat → Nat → Nat
  | 0, _, _, acc => acc
  | fuel + 1, e, b, acc => powLoop m fuel (e / 2) (b * b % m) (if e % 2 = 1 then acc * b % m else acc)

/-- ModExp(g, e, m) for m ≥ 1: (g ^ e) mod m, with g ^ 0 = 1 (R415). Any multiplication schedule gives the same value
(R415); this one is repeated squaring, so that it can be evaluated. -/
def modExp (g e m : Nat) : Nat := powLoop m (bitlen e) e (g % m) (1 % m)

/-- CmdMontMul (R411). -/
def cmdMontMul (rd ra rb rc : Reg) (s : State) : CmdResult :=
  let a := s.reg ra
  let b := s.reg rb
  let m := s.reg rc
  let s := s.noteRegs [ra, rb, rc]
  if m % 2 = 0 then .raise .operandRange s
  else if a ≥ m ∨ b ≥ m then .raise .operandRange s
  else .commit (s.setReg rd (a * b * rInv s.cfg m % m))

/-- CmdModMul (R413). -/
def cmdModMul (rd ra rb rc : Reg) (s : State) : CmdResult :=
  let a := s.reg ra
  let b := s.reg rb
  let m := s.reg rc
  let s := s.noteRegs [ra, rb, rc]
  if m = 0 then .raise .operandRange s else .commit (s.setReg rd (a * b % m))

/-- CmdModExp (R415). -/
def cmdModExp (rd ra rb rc : Reg) (s : State) : CmdResult :=
  let g := s.reg ra
  let e := s.reg rb
  let m := s.reg rc
  let s := s.noteRegs [ra, rb, rc]
  if m = 0 then .raise .operandRange s else .commit (s.setReg rd (modExp g e m))

/-- MONT_MUL (R411). -/
def execMontMul (rd ra rb rc : Reg) (s : State) : Host.Outcome State Fault Refusal :=
  conclude s (cmdMontMul rd ra rb rc s)

/-- MOD_MUL (R413). -/
def execModMul (rd ra rb rc : Reg) (s : State) : Host.Outcome State Fault Refusal :=
  conclude s (cmdModMul rd ra rb rc s)

/-- MOD_EXP (R415). -/
def execModExp (rd ra rb rc : Reg) (s : State) : Host.Outcome State Fault Refusal :=
  conclude s (cmdModExp rd ra rb rc s)

end Sys2Proof.Machine
end

