-- ==== Sys2Proof/Machine/Salsa20.lean ====
section
/-! DEFINITION. The Salsa20 family: SALSA_QR, SALSA_BLOCK, SALSA_KS, SALSA_XOR (46_salsa20.md). -/

namespace Sys2Proof.Machine

open Sys2Proof

/-! ### Words and the quarter-round -/

/-- rotl(u, c) for 1 ≤ c ≤ 31 (R550). -/
def rotl (u : Word) (c : Nat) : Word := (u <<< c) ||| (u >>> (32 - c))

/-- Words(s): the little-endian words of a byte string of length 4k (R550). -/
def wordsOf : List Byte → List Word
  | b0 :: b1 :: b2 :: b3 :: s => BitVec.ofNat 32 (leNat [b0, b1, b2, b3]) :: wordsOf s
  | _ => []

/-- Bytes(w0, …): le_bytes_4 of each word in turn (R550). -/
def bytesOf : List Word → List Byte
  | [] => []
  | w :: ws => leBytes 4 w.toNat ++ bytesOf ws

/-- Four words, the operand of a quarter-round. -/
structure Quad where
  /-- word 0 -/
  w0 : Word
  /-- word 1 -/
  w1 : Word
  /-- word 2 -/
  w2 : Word
  /-- word 3 -/
  w3 : Word
  deriving DecidableEq, Repr

/-- QuarterRound(y0, y1, y2, y3) (R551). -/
def quarterRound (y : Quad) : Quad :=
  let z1 := y.w1 ^^^ rotl (y.w0 + y.w3) 7
  let z2 := y.w2 ^^^ rotl (z1 + y.w0) 9
  let z3 := y.w3 ^^^ rotl (z2 + z1) 13
  let z0 := y.w0 ^^^ rotl (z3 + z2) 18
  ⟨z0, z1, z2, z3⟩

/-- The first four words of a list, as a quarter-round operand. -/
def quadOf (ws : List Word) : Quad := ⟨ws.getD 0 0, ws.getD 1 0, ws.getD 2 0, ws.getD 3 0⟩

/-- The words of a quad, in order. -/
def Quad.words (q : Quad) : List Word := [q.w0, q.w1, q.w2, q.w3]

/-! ### Rounds and the block function -/

/-- A state of 16 words x[0..15] (R554). -/
structure Block where
  /-- word 0 -/
  x0 : Word
  /-- word 1 -/
  x1 : Word
  /-- word 2 -/
  x2 : Word
  /-- word 3 -/
  x3 : Word
  /-- word 4 -/
  x4 : Word
  /-- word 5 -/
  x5 : Word
  /-- word 6 -/
  x6 : Word
  /-- word 7 -/
  x7 : Word
  /-- word 8 -/
  x8 : Word
  /-- word 9 -/
  x9 : Word
  /-- word 10 -/
  x10 : Word
  /-- word 11 -/
  x11 : Word
  /-- word 12 -/
  x12 : Word
  /-- word 13 -/
  x13 : Word
  /-- word 14 -/
  x14 : Word
  /-- word 15 -/
  x15 : Word
  deriving DecidableEq, Repr

/-- The block whose words are the first 16 of a list (R554, R555). -/
def blockOf (ws : List Word) : Block where
  x0 := ws.getD 0 0
  x1 := ws.getD 1 0
  x2 := ws.getD 2 0
  x3 := ws.getD 3 0
  x4 := ws.getD 4 0
  x5 := ws.getD 5 0
  x6 := ws.getD 6 0
  x7 := ws.getD 7 0
  x8 := ws.getD 8 0
  x9 := ws.getD 9 0
  x10 := ws.getD 10 0
  x11 := ws.getD 11 0
  x12 := ws.getD 12 0
  x13 := ws.getD 13 0
  x14 := ws.getD 14 0
  x15 := ws.getD 15 0

/-- The words of a block, in order. -/
def Block.words (z : Block) : List Word :=
  [z.x0, z.x1, z.x2, z.x3, z.x4, z.x5, z.x6, z.x7, z.x8, z.x9, z.x10, z.x11, z.x12, z.x13, z.x14, z.x15]

/-- ColumnRound (R554). -/
def columnRound (x : Block) : Block :=
  let a := quarterRound ⟨x.x0, x.x4, x.x8, x.x12⟩
  let b := quarterRound ⟨x.x5, x.x9, x.x13, x.x1⟩
  let c := quarterRound ⟨x.x10, x.x14, x.x2, x.x6⟩
  let d := quarterRound ⟨x.x15, x.x3, x.x7, x.x11⟩
  { x0 := a.w0, x4 := a.w1, x8 := a.w2, x12 := a.w3
    x5 := b.w0, x9 := b.w1, x13 := b.w2, x1 := b.w3
    x10 := c.w0, x14 := c.w1, x2 := c.w2, x6 := c.w3
    x15 := d.w0, x3 := d.w1, x7 := d.w2, x11 := d.w3 }

/-- RowRound (R554; 90_conflicts.md C7). -/
def rowRound (x : Block) : Block :=
  let a := quarterRound ⟨x.x0, x.x1, x.x2, x.x3⟩
  let b := quarterRound ⟨x.x5, x.x6, x.x7, x.x4⟩
  let c := quarterRound ⟨x.x10, x.x11, x.x8, x.x9⟩
  let d := quarterRound ⟨x.x15, x.x12, x.x13, x.x14⟩
  { x0 := a.w0, x1 := a.w1, x2 := a.w2, x3 := a.w3
    x5 := b.w0, x6 := b.w1, x7 := b.w2, x4 := b.w3
    x10 := c.w0, x11 := c.w1, x8 := c.w2, x9 := c.w3
    x15 := d.w0, x12 := d.w1, x13 := d.w2, x14 := d.w3 }

/-- DoubleRound(x) = RowRound(ColumnRound(x)) (R554). -/
def doubleRound (x : Block) : Block := rowRound (columnRound x)

/-- `n` DoubleRounds in turn (R555). -/
def doubleRounds : Nat → Block → Block
  | 0, z => z
  | n + 1, z => doubleRounds n (doubleRound z)

/-- Core(s) on 64 bytes: ten DoubleRounds and the feed-forward (R555). -/
def core64 (s : List Byte) : List Byte :=
  let x := blockOf (wordsOf s)
  bytesOf (List.zipWith (fun z w => z + w) (doubleRounds 10 x).words x.words)

/-! ### Keystream -/

/-- BlockInput(key, nonce, i) (R558; 90_conflicts.md C1). -/
def blockInput (key nonce : List Byte) (i : Nat) : List Byte :=
  leBytes 4 Config.sigma0.toNat ++ key.take 16 ++ leBytes 4 Config.sigma1.toNat ++ nonce ++
    leBytes 8 i ++ leBytes 4 Config.sigma2.toNat ++ (key.drop 16).take 16 ++ leBytes 4 Config.sigma3.toNat

/-- `n` keystream blocks from block index `i` on (R559). -/
def keystreamBlocks (key nonce : List Byte) : Nat → Nat → List Byte
  | 0, _ => []
  | n + 1, i => core64 (blockInput key nonce i) ++ keystreamBlocks key nonce n (i + 1)

/-- Keystream(key, nonce, L): ceil(L/64) blocks from index 0, truncated to L bytes (R559). -/
def keystream (key nonce : List Byte) (len : Nat) : List Byte :=
  (keystreamBlocks key nonce ((len + 63) / Config.blockBytes) 0).take len

/-- StreamXor(key, nonce, data) (R561). -/
def streamXor (key nonce data : List Byte) : List Byte := xorBytes data (keystream key nonce data.length)

/-! ### The commands -/

/-- CmdSalsaQr (R553). -/
def cmdSalsaQr (s : State) : CmdResult :=
  if !(s.fits (s.regionA 16) && s.fits (s.regionD 16)) then .raise .memRange s
  else
    let y := s.memRead (s.regionA 16)
    .commit ((s.noteMem [s.regionA 16]).storeOutput (bytesOf (quarterRound (quadOf (wordsOf y))).words))

/-- CmdSalsaBlock (R556). -/
def cmdSalsaBlock (s : State) : CmdResult :=
  if !(s.fits (s.regionA 64) && s.fits (s.regionD 64)) then .raise .memRange s
  else
    let y := s.memRead (s.regionA 64)
    .commit ((s.noteMem [s.regionA 64]).storeOutput (core64 y))

/-- CmdSalsaKs (R560). ADDR_A is not read. -/
def cmdSalsaKs (s : State) : CmdResult :=
  if !s.lengthsOk then .raise .badLength s
  else
    let len := s.desc.lenA.toNat
    if !(s.fits (s.regionK 32) && s.fits (s.regionN 8) && s.fits (s.regionD len)) then .raise .memRange s
    else
      let key := s.memRead (s.regionK 32)
      let nonce := s.memRead (s.regionN 8)
      .commit ((s.noteMem [s.regionK 32, s.regionN 8]).storeOutput (keystream key nonce len))

/-- The shape SALSA_XOR, OFB_ENC and OFB_DEC share (R562, R591, R593): a cipher applied to key, nonce and data. -/
def cmdStream (cipher : List Byte → List Byte → List Byte → List Byte) (s : State) : CmdResult :=
  if !s.lengthsOk then .raise .badLength s
  else
    let len := s.desc.lenA.toNat
    if !(s.fits (s.regionK 32) && s.fits (s.regionN 8) && s.fits (s.regionA len) && s.fits (s.regionD len)) then
      .raise .memRange s
    else
      let key := s.memRead (s.regionK 32)
      let nonce := s.memRead (s.regionN 8)
      let data := s.memRead (s.regionA len)
      .commit ((s.noteMem [s.regionK 32, s.regionN 8, s.regionA len]).storeOutput (cipher key nonce data))

/-- SALSA_QR (R553). -/
def execSalsaQr (s : State) : Host.Outcome State Fault Refusal := conclude s (cmdSalsaQr s)

/-- SALSA_BLOCK (R556). -/
def execSalsaBlock (s : State) : Host.Outcome State Fault Refusal := conclude s (cmdSalsaBlock s)

/-- SALSA_KS (R560). -/
def execSalsaKs (s : State) : Host.Outcome State Fault Refusal := conclude s (cmdSalsaKs s)

/-- SALSA_XOR (R562). -/
def execSalsaXor (s : State) : Host.Outcome State Fault Refusal := conclude s (cmdStream streamXor s)

end Sys2Proof.Machine
end

