-- ==== Sys2Proof/Machine/Ofb.lean ====
section
/-! DEFINITION. The OFB chaining family: OFB_ENC, OFB_DEC (47_ofb.md). -/

namespace Sys2Proof.Machine

open Sys2Proof

/-- The block loop of Ofb (R590), with fuel for the number of blocks: each block of at most 64 bytes is masked with
StreamXor of zeros under the chaining value, whose next value is the first 8 bytes of that keystream. -/
def ofbBlocks (key : List Byte) : Nat → List Byte → List Byte → List Byte
  | 0, _, _ => []
  | fuel + 1, cv, data =>
    let blk := data.take 64
    let ks := streamXor key (cv.take 8) (List.replicate blk.length 0#8)
    xorBytes blk ks ++ ofbBlocks key fuel (ks.take 8) (data.drop 64)

/-- Ofb(key, iv, data) (R590). -/
def ofb (key iv data : List Byte) : List Byte := ofbBlocks key ((data.length + 63) / 64) iv data

/-- OFB_ENC (R591). -/
def execOfbEnc (s : State) : Host.Outcome State Fault Refusal := conclude s (cmdStream ofb s)

/-- OFB_DEC, in every respect identical to OFB_ENC (R593). -/
def execOfbDec (s : State) : Host.Outcome State Fault Refusal := conclude s (cmdStream ofb s)

end Sys2Proof.Machine
end

