-- ==== Sys2Proof/Machine/Rsa.lean ====
section
/-! DEFINITION. The RSA family: RSA_PRIME_TEST, RSA_GEN_PRIME, RSA_KEYGEN, RSA_SIGN, RSA_VERIFY (45_rsa.md). -/

namespace Sys2Proof.Machine

open Sys2Proof

/-! ### Primality testing -/

/-- The exponent of 2 in v ≥ 1, with fuel for at least bitlen(v) halvings (R510). -/
def twos : Nat → Nat → Nat
  | 0, _ => 0
  | fuel + 1, v => if v % 2 = 0 then twos fuel (v / 2) + 1 else 0

/-- The squarings of a Miller–Rabin round (R510): whether y, or one of the next `left` squares, is c − 1. -/
def squaresToMinusOne (c : Nat) : Nat → Nat → Bool
  | 0, y => decide (y = c - 1)
  | left + 1, y => if y = c - 1 then true else squaresToMinusOne c left (y * y % c)

/-- One Miller–Rabin round with base a, where c − 1 = 2^s·t (R510): false when a is a witness. -/
def roundPasses (c s t a : Nat) : Bool :=
  let y := modExp a t c
  if y = 1 ∨ y = c - 1 then true else squaresToMinusOne c (s - 1) y

/-- The rounds of IsPrime (R510): one draw per round, stopping at the first witness (R403, R511 (a)). -/
def rounds (c s t : Nat) : Nat → RandomSource → Bool × RandomSource
  | 0, g => (true, g)
  | r + 1, g =>
    match g.drawRange 2 (c - 2) with
    | (a, g') => if roundPasses c s t a then rounds c s t r g' else (false, g')

/-- IsPrime(c, rounds) with its draws (R510). -/
def isPrime (c n : Nat) (g : RandomSource) : Bool × RandomSource :=
  if c < 2 then (false, g)
  else
    match Config.smallPrimes.find? fun sp => c % sp == 0 with
    | some sp => (decide (c = sp), g)
    | none =>
      let s := twos (bitlen (c - 1)) (c - 1)
      rounds c s ((c - 1) / 2 ^ s) n g

/-! ### Prime and key generation -/

/-- A candidate of GenPrime: the drawn bits with the top bit forced (R513). -/
def candidate (bits v : Nat) : Nat := v ||| 2 ^ (bits - 1)

/-- GenPrime(bits) over the first `fuel` candidates (R513): `none` when none of them has passed, so that the search goes
on (R514 (b), R621). -/
def genPrime (bits : Nat) : Nat → RandomSource → Option (Nat × RandomSource)
  | 0, _ => none
  | fuel + 1, g =>
    match g.drawBits bits with
    | (v, g1) =>
      match isPrime (candidate bits v) Config.mrRoundsDefault g1 with
      | (true, g2) => some (candidate bits v, g2)
      | (false, g2) => genPrime bits fuel g2

/-- What RsaKeygen answers: a key, or the error it raises (R517). -/
inductive KeyResult where
  /-- (n, e, d) -/
  | key (n e d : Nat)
  /-- DEGENERATE or NO_INVERSE -/
  | failed (e : ErrCode)
  deriving DecidableEq, Repr

/-- The end of RsaKeygen, once both primes are known (R517): DEGENERATE for p = q is tested before NO_INVERSE (R608). -/
def keyOf (p q : Nat) : KeyResult :=
  if p = q then .failed .degenerate
  else
    match modInv Config.rsaE ((p - 1) * (q - 1)) with
    | none => .failed .noInverse
    | some d => .key (p * q) Config.rsaE d

/-- RsaKeygen(bits) with at most `fuel` candidates for each prime (R517): `none` while a search goes on. -/
def rsaKeygen (bits fuel : Nat) (g : RandomSource) : Option (KeyResult × RandomSource) :=
  match genPrime (bits / 2) fuel g with
  | none => none
  | some (p, g1) =>
    match genPrime (bits / 2) fuel g1 with
    | none => none
    | some (q, g2) => some (keyOf p q, g2)

/-- How many candidates the model examines in the present step (entry 9): more at each further look at the command, so that
a search that ends at all ends after finitely many steps (R621). -/
def State.searchFuel (s : State) : Nat := (s.attempts + 1) * Config.searchBudget

/-- CmdRsaPrimeTest (R512). -/
def cmdRsaPrimeTest (rd ra : Reg) (aux : Fin 16) (s : State) : CmdResult :=
  let c := s.reg ra
  let s := s.noteRegs [ra]
  match isPrime c (if aux = 0 then Config.mrRoundsDefault else aux.val) s.rng with
  | (b, g) => .commit ((s.setRng g).setReg rd b.toNat)

/-- CmdRsaGenPrime (R515). -/
def cmdRsaGenPrime (rd ra : Reg) (s : State) : CmdResult :=
  let bits := s.reg ra
  let s := s.noteRegs [ra]
  if bits < 2 ∨ bits > s.cfg.opw then .raise .operandRange s
  else
    match genPrime bits s.searchFuel s.rng with
    | none => .searching
    | some (c, g) => .commit ((s.setRng g).setReg rd c)

/-- CmdRsaKeygen (R518). -/
def cmdRsaKeygen (rd ra rb rc : Reg) (s : State) : CmdResult :=
  if rd = rb ∨ rd = rc ∨ rb = rc then .raise .illegalOperand s
  else
    let bits := s.reg ra
    let s := s.noteRegs [ra]
    if bits < 4 ∨ bits > s.cfg.opw then .raise .operandRange s
    else
      match rsaKeygen bits s.searchFuel s.rng with
      | none => .searching
      | some (.failed e, g) => .raise e (s.setRng g)
      | some (.key n e d, g) => .commit ((((s.setRng g).setReg rd n).setReg rb d).setReg rc e)

/-! ### Signing and verification -/

/-- Sign(n, d, hb) for n ≥ 1 (R521). -/
def sign (n d : Nat) (hb : List Byte) : List Byte := minBE (modExp (beNat hb) d n)

/-- Verify(n, e, hb, sb) for n ≥ 1 (R523). -/
def verify (n e : Nat) (hb sb : List Byte) : Bool := decide (modExp (beNat sb) e n = beNat hb)

/-- CmdRsaSign (R522). -/
def cmdRsaSign (ra rb : Reg) (s : State) : CmdResult :=
  let n := s.reg ra
  let d := s.reg rb
  let hash := s.regionA s.desc.lenA.toNat
  let s := s.noteRegs [ra, rb]
  if !(s.fits hash && s.fits (s.regionD (nbytes n))) then .raise .memRange s
  else
    let hb := s.memRead hash
    let s := s.noteMem [hash]
    if n = 0 then .raise .operandRange s else .commit (s.storeOutput (sign n d hb))

/-- CmdRsaVerify (R525). -/
def cmdRsaVerify (rd ra rb : Reg) (s : State) : CmdResult :=
  let n := s.reg ra
  let e := s.reg rb
  let hash := s.regionA s.desc.lenA.toNat
  let sig := s.regionB s.desc.lenB.toNat
  let s := s.noteRegs [ra, rb]
  if !(s.fits hash && s.fits sig) then .raise .memRange s
  else
    let hb := s.memRead hash
    let sb := s.memRead sig
    let s := s.noteMem [hash, sig]
    if n = 0 then .raise .operandRange s else .commit (s.setReg rd (verify n e hb sb).toNat)

/-- RSA_PRIME_TEST (R512). -/
def execRsaPrimeTest (rd ra : Reg) (aux : Fin 16) (s : State) : Host.Outcome State Fault Refusal :=
  conclude s (cmdRsaPrimeTest rd ra aux s)

/-- RSA_GEN_PRIME (R515). -/
def execRsaGenPrime (rd ra : Reg) (s : State) : Host.Outcome State Fault Refusal := conclude s (cmdRsaGenPrime rd ra s)

/-- RSA_KEYGEN (R518). -/
def execRsaKeygen (rd ra rb rc : Reg) (s : State) : Host.Outcome State Fault Refusal :=
  conclude s (cmdRsaKeygen rd ra rb rc s)

/-- RSA_SIGN (R522). -/
def execRsaSign (ra rb : Reg) (s : State) : Host.Outcome State Fault Refusal := conclude s (cmdRsaSign ra rb s)

/-- RSA_VERIFY (R525). -/
def execRsaVerify (rd ra rb : Reg) (s : State) : Host.Outcome State Fault Refusal := conclude s (cmdRsaVerify rd ra rb s)

end Sys2Proof.Machine
end

