-- ==== Sys2Proof/Machine/Dispatch.lean ====
section
/-! DEFINITION. The dispatch of a decoded command to its meaning, one arm per command (40_control.md R402). -/

namespace Sys2Proof.Machine

open Sys2Proof

def exec (i : Instr) (s : State) : Host.Outcome State Fault Refusal :=
  match i with
  | .nop => Sys2Proof.Machine.execNop s
  | .montMul rd ra rb rc => Sys2Proof.Machine.execMontMul rd ra rb rc s
  | .modMul rd ra rb rc => Sys2Proof.Machine.execModMul rd ra rb rc s
  | .modExp rd ra rb rc => Sys2Proof.Machine.execModExp rd ra rb rc s
  | .modInv rd ra rc => Sys2Proof.Machine.execModInv rd ra rc s
  | .ecAdd rd ra rb => Sys2Proof.Machine.execEcAdd rd ra rb s
  | .ecDbl rd ra => Sys2Proof.Machine.execEcDbl rd ra s
  | .ecSmul rd ra rb => Sys2Proof.Machine.execEcSmul rd ra rb s
  | .ecOnCurve rd ra => Sys2Proof.Machine.execEcOnCurve rd ra s
  | .egKeygen rd rb => Sys2Proof.Machine.execEgKeygen rd rb s
  | .egEnc rd ra rb rc => Sys2Proof.Machine.execEgEnc rd ra rb rc s
  | .egDec rd ra rb rc => Sys2Proof.Machine.execEgDec rd ra rb rc s
  | .rsaPrimeTest rd ra aux => Sys2Proof.Machine.execRsaPrimeTest rd ra aux s
  | .rsaGenPrime rd ra => Sys2Proof.Machine.execRsaGenPrime rd ra s
  | .rsaKeygen rd ra rb rc => Sys2Proof.Machine.execRsaKeygen rd ra rb rc s
  | .rsaSign ra rb => Sys2Proof.Machine.execRsaSign ra rb s
  | .rsaVerify rd ra rb => Sys2Proof.Machine.execRsaVerify rd ra rb s
  | .salsaQr => Sys2Proof.Machine.execSalsaQr s
  | .salsaBlock => Sys2Proof.Machine.execSalsaBlock s
  | .salsaKs => Sys2Proof.Machine.execSalsaKs s
  | .salsaXor => Sys2Proof.Machine.execSalsaXor s
  | .ofbEnc => Sys2Proof.Machine.execOfbEnc s
  | .ofbDec => Sys2Proof.Machine.execOfbDec s

end Sys2Proof.Machine
end

