-- ==== Sys2Proof/Machine/HostBus.lean ====
section
/-! DEFINITION. Host accesses: the host interface space (20_memory.md R200 to R204), the BUSY window (R207), and every row of
the table of 70_reset_and_hazards.md R712. -/

namespace Sys2Proof.Machine

open Sys2Proof

/-- The name of a descriptor register (R105). -/
inductive DescName where
  | addrA
  | lenA
  | addrB
  | lenB
  | addrK
  | lenK
  | addrN
  | lenN
  | addrD
  | lenD
  deriving DecidableEq, Repr

/-- The value of a descriptor register. -/
def Descriptors.get (d : Descriptors) : DescName → Word
  | .addrA => d.addrA
  | .lenA => d.lenA
  | .addrB => d.addrB
  | .lenB => d.lenB
  | .addrK => d.addrK
  | .lenK => d.lenK
  | .addrN => d.addrN
  | .lenN => d.lenN
  | .addrD => d.addrD
  | .lenD => d.lenD

/-- A descriptor register written. -/
def Descriptors.set (d : Descriptors) (n : DescName) (w : Word) : Descriptors :=
  match n with
  | .addrA => { d with addrA := w }
  | .lenA => { d with lenA := w }
  | .addrB => { d with addrB := w }
  | .lenB => { d with lenB := w }
  | .addrK => { d with addrK := w }
  | .lenK => { d with lenK := w }
  | .addrN => { d with addrN := w }
  | .lenN => { d with lenN := w }
  | .addrD => { d with addrD := w }
  | .lenD => { d with lenD := w }

/-- What lies at an offset of the host interface space (R105, R201). -/
inductive Target where
  /-- offset 0x000 -/
  | cmd
  /-- offset 0x004 -/
  | status
  /-- offset 0x008 -/
  | errcode
  /-- offset 0x00C -/
  | ctrl
  /-- offset 0x010 -/
  | inf
  /-- offset 0x014 -/
  | osel
  /-- offset 0x018 -/
  | caps
  /-- offsets 0x020 to 0x044 -/
  | descriptor (n : DescName)
  /-- word w of the operand window, at 0x01000 + 4w (R203) -/
  | operandWord (w : Nat)
  /-- the DMEM word whose first byte is at DMEM offset a = 4k, at 0x10000 + 4k (R204) -/
  | dmemWord (a : Nat)
  /-- nothing is mapped there (R202) -/
  | unmapped
  deriving DecidableEq, Repr

/-- The map of R201 and the register page of R105, for a 4-byte-aligned offset. -/
def target (c : Config) (off : Nat) : Target :=
  if off < 0x1000 then
    match off with
    | 0x000 => .cmd
    | 0x004 => .status
    | 0x008 => .errcode
    | 0x00C => .ctrl
    | 0x010 => .inf
    | 0x014 => .osel
    | 0x018 => .caps
    | 0x020 => .descriptor .addrA
    | 0x024 => .descriptor .lenA
    | 0x028 => .descriptor .addrB
    | 0x02C => .descriptor .lenB
    | 0x030 => .descriptor .addrK
    | 0x034 => .descriptor .lenK
    | 0x038 => .descriptor .addrN
    | 0x03C => .descriptor .lenN
    | 0x040 => .descriptor .addrD
    | 0x044 => .descriptor .lenD
    | _ => .unmapped
  else if off < 0x1000 + c.opw / 8 then .operandWord ((off - 0x1000) / 4)
  else if 0x10000 ≤ off ∧ off < 0x10000 + c.dmemBytes then .dmemWord (off - 0x10000)
  else .unmapped

/-- What an access of the given width at an offset reaches: `unmapped` also where it is narrower or wider than 32 bits or
misaligned, since such an access is unsupported alike (R202). -/
def reach (c : Config) (bits : Nat) (off : Word) : Target :=
  if bits = 32 ∧ off.toNat % 4 = 0 then target c off.toNat else .unmapped

/-- CAPS.DMEMK: DMEM_BYTES/1024 (R112). For DMEM_BYTES = 67108864, which R8 allows, that is 65536 and does not fit the
16 bits; the spec does not say what the field reads there, and the model gives it a free value. DESIGN CHOICE (entry
22). -/
def dmemk (c : Config) : BitVec 16 :=
  if c.dmemBytes / 1024 < 65536 then BitVec.ofNat 16 (c.dmemBytes / 1024) else Config.capsDmemkTooLarge

/-- CAPS: OPWW = OPW/32 in bits 15:0, DMEMK in bits 31:16 (R112; entry 22). -/
def caps (c : Config) : Word := BitVec.ofNat 32 (c.opw / 32) ||| ((dmemk c).setWidth 32 <<< 16)

/-- An unsupported access sets BUSERR (R202). -/
def State.busError (s : State) : State := { s with status := { s.status with buserr := true } }

/-- A host write dropped while BUSY = 1 sets HAZ and changes nothing else (R207). -/
def State.dropped (s : State) : State := { s with status := { s.status with haz := true } }

/-- A host read returns a word (R210). -/
def State.returns (s : State) (w : Word) : State := { s with readData := some w }

/-- A window read while BUSY = 1 returns an unspecified word (R207): a free value. -/
def State.returnsFree (s : State) : State :=
  { s with readData := some (Config.busyWord s.stamp), stamp := s.stamp + 1 }

/-- A host read of something not written since reset: UNWRITTEN_READ is recorded, and the model returns no value (R101,
R205, R609). -/
def State.returnsNothing (s : State) : State := { s with readData := none, unwrittenRead := true }

/-- The little-endian word at a DMEM offset, if all four bytes have been written (R204). -/
def Memory.readWord (m : Memory) (a : Nat) : Option Word :=
  match Memory.read m a, Memory.read m (a + 1), Memory.read m (a + 2), Memory.read m (a + 3) with
  | some b0, some b1, some b2, some b3 => some (BitVec.ofNat 32 (leNat [b0, b1, b2, b3]))
  | _, _, _, _ => none

/-- A 32-bit host write's bytes at a DMEM offset, little-endian (R204). -/
def Memory.writeWord (m : Memory) (a : Nat) (d : Word) : Memory := Memory.writeBytes m a (leBytes 4 d.toNat)

/-- A host read (R202, R203, R204, R207, R210). -/
def hostRead (bits : Nat) (off : Word) (s : State) : State :=
  match reach s.cfg bits off with
  | .cmd => s.returns s.cmd
  | .status => s.returns s.status.toWord
  | .errcode => s.returns (s.errcode.setWidth 32)
  | .ctrl => s.returns (BitVec.ofNat 32 s.ie.toNat)
  | .inf => s.returns (s.tag.setWidth 32)
  | .osel => s.returns (BitVec.ofNat 32 s.osel.val)
  | .caps => s.returns (caps s.cfg)
  | .descriptor n => s.returns (s.desc.get n)
  | .operandWord w =>
    if s.status.busy then s.returnsFree
    else if s.written s.osel then s.returns (windowWord (s.reg s.osel) w)
    else s.returnsNothing
  | .dmemWord a =>
    if s.status.busy then s.returnsFree
    else
      match s.dmem.readWord a with
      | some w => s.returns w
      | none => s.returnsNothing
  | .unmapped => s.busError.returns 0#32

/-- The host writes word w of operand register r (R102, R203): those 32 bits are replaced. Where nothing of the register
has been written since reset, each of its other words becomes a free value (R203; entry 6). -/
def State.writeOperandWord (s : State) (r : Reg) (w : Nat) (d : Word) : State :=
  if s.written r then s.setReg r (setWindowWord (s.reg r) w d)
  else
    { s.setReg r (setWindowWord (valueOfWords (Config.unwrittenWord s.stamp) (s.cfg.opw / 32)) w d) with
      stamp := s.stamp + 1 }

/-- A host write (R106 to R113, R202 to R204, R207, R701). -/
def hostWrite (bits : Nat) (off data : Word) (s : State) : State :=
  match reach s.cfg bits off with
  | .cmd =>
    if s.status.busy then { s with status := { s.status with ovr := true } } else s.accept data
  | .status => { s with status := s.status.writeOneToClear data }
  | .errcode => s
  | .ctrl => if data.getLsbD 1 then s.hardwareReset else { s with ie := data.getLsbD 0 }
  | .inf => if s.status.busy then s.dropped else { s with tag := data.setWidth 16 }
  | .osel => { s with osel := ⟨data.toNat % 32, Nat.mod_lt _ (by decide)⟩ }
  | .caps => s
  | .descriptor n => if s.status.busy then s.dropped else { s with desc := s.desc.set n data }
  | .operandWord w => if s.status.busy then s.dropped else s.writeOperandWord s.osel w data
  | .dmemWord a => if s.status.busy then s.dropped else { s with dmem := s.dmem.writeWord a data }
  | .unmapped => s.busError

/-- A host access. -/
def hostAccess (a : HostAccess) (s : State) : State :=
  match a with
  | .read bits off => hostRead bits off s
  | .write bits off data => hostWrite bits off data s

end Sys2Proof.Machine
end

