-- ==== Sys2Proof/Machine/Step.lean ====
section
/-! DEFINITION. One step of the machine: the next event of the interleaving (20_memory.md R214), a host access, a step of the
sequencer (40_control.md R401), or a reset. -/

namespace Sys2Proof.Machine

open Sys2Proof

/-- The sequencer's step (R401, R402): in phase BUSY it decodes the held word and executes it; in phase IDLE it does
nothing. -/
def sequencerStep (s : State) : Host.Outcome State Fault Refusal :=
  if s.status.busy then
    match s.fetch with
    | .ok i => exec i s
    | .error why => illegalWord why s
  else .next s

/-- One event (R214). -/
def happen (e : Event) (s : State) : Host.Outcome State Fault Refusal :=
  match e with
  | .host a => .next (hostAccess a s)
  | .sequencer => sequencerStep s
  | .rst => .next s.hardwareReset

/-- One step: the agenda's first event, or, where the agenda is empty, the sequencer's step (R711: once BUSY = 1 it is
eventually taken; entry 10). An ill-formed configuration is refused before any step (R9, R622). -/
def step (s : State) : Host.Outcome State Fault Refusal :=
  if admitted s.cfg then
    match s.agenda with
    | [] => sequencerStep s
    | e :: rest => happen e { s with agenda := rest }
  else .refused .illFormedConfiguration

/-- The command word `w` accepted (R400), so that the very next step is the sequencer's step on it (entry 10). -/
def State.withFetchWord (s : State) (nbits w : Nat) : State :=
  { s.accept (BitVec.ofNat 32 (w % 2 ^ nbits)) with agenda := .sequencer :: s.agenda }

end Sys2Proof.Machine
end

