-- ==== Sys2Proof/Safety.lean ====
section
/-! DEFINITION. The terms in which claims are made: what a safe run is, when a command's sources are ready, how a command
ended, what it left unchanged, and the primality rounds, the scan and the Salsa20 rounds as R510, R459 and R554 state them. -/

namespace Sys2Proof.Machine

open Sys2Proof

/-! ### Runs -/

/-- A run has ended (R713): the host has made its last access, and the core is IDLE. R713 leaves open whether an rst still
to come after the host's last access belongs to the run; here every pending event of the agenda does, an rst among them,
as R712 lists "assert rst" with the host's actions. DESIGN CHOICE (entry 23). -/
def State.ended (s : State) : Bool := s.agenda.isEmpty && !s.status.busy

/-- A run has ended successfully: it has ended, and no UNWRITTEN_READ is recorded (R609, R713). -/
def State.successful (s : State) : Bool := s.ended && !s.unwrittenRead

/-- What holds of every state a run from reset reaches (and is kept by every step from any state): the configuration is
admitted (R9), no operand register holds 2^OPW or more (R100), DMEM is canonical and holds nothing at or above DMEM_BYTES
(R205), while BUSY no completion status stands (R107, R108), ERR stands only with a code (R107), and no code above 0x07
is ever written (R600). -/
structure Inv (s : State) : Prop where
  admitted : admitted s.cfg = true
  values : ∀ r : Reg, s.reg r < 2 ^ s.cfg.opw
  canonical : Memory.wf s.dmem = true
  inDmem : ∀ a, s.cfg.dmemBytes ≤ a → s.dmem.read a = none
  busyIsClear : s.status.busy = true → s.status.done = false ∧ s.status.err = false ∧ s.errcode = 0#8
  errHasCode : s.status.err = true → s.errcode ≠ 0#8
  codeKnown : s.errcode.toNat ≤ 7

/-! ### Sources -/

/-- Every register of the list has been written since reset, so that reading it is no UNWRITTEN_READ (R101, R609). -/
def Written (rs : List Reg) (s : State) : Prop := ∀ r ∈ rs, s.written r = true

/-- Pair j can be read as a point without UNWRITTEN_READ: it shows the identity, or both coordinates have been written
(R609). -/
def PointReady (j : Pair) (s : State) : Prop :=
  s.isIdentity j = true ∨ (s.written (pairX j) = true ∧ s.written (pairY j) = true)

/-- Both registers of pair j have been written since reset (R101, R103). -/
def PairWritten (j : Pair) (s : State) : Prop := s.written (pairX j) = true ∧ s.written (pairY j) = true

/-- DMEM holds the byte string from offset a on, each byte written since reset (R205). -/
def Holds (s : State) (a : Nat) (bs : List Byte) : Prop :=
  ∀ i (h : i < bs.length), s.dmem.read (a + i) = some bs[i]

/-! ### The register page -/

/-- The registers of the page that hold a command's inputs, INF, OSEL and the ten descriptors: each one's offset with its
writable bits (R105, R110, R111, R113). -/
def inputRegisters : List (Word × Word) :=
  [(0x010#32, 0x0000FFFF#32), (0x014#32, 0x0000001F#32),
   (0x020#32, 0xFFFFFFFF#32), (0x024#32, 0xFFFFFFFF#32), (0x028#32, 0xFFFFFFFF#32), (0x02C#32, 0xFFFFFFFF#32),
   (0x030#32, 0xFFFFFFFF#32), (0x034#32, 0xFFFFFFFF#32), (0x038#32, 0xFFFFFFFF#32), (0x03C#32, 0xFFFFFFFF#32),
   (0x040#32, 0xFFFFFFFF#32), (0x044#32, 0xFFFFFFFF#32)]

/-! ### How a command ended -/

/-- Completion without error (R401): DONE, no ERR, ERRCODE OK, the sticky bits as they were. -/
def Succeeded (s t : State) : Prop :=
  t.status = { s.status with busy := false, done := true, err := false } ∧ t.errcode = 0x00#8

/-- Completion with an error code (R401, R600): DONE and ERR, the sticky bits as they were. -/
def FailedWith (code : BitVec 8) (s t : State) : Prop :=
  t.status = { s.status with busy := false, done := true, err := true } ∧ t.errcode = code

/-- The command recorded no UNWRITTEN_READ, made no draw and used no free value. -/
def Quiet (s t : State) : Prop :=
  t.unwrittenRead = s.unwrittenRead ∧ t.rng = s.rng ∧ t.stamp = s.stamp

/-! ### The primality test, as R510 states it -/

/-- The answers to `n` draws of Range(lo, hi) in turn, and the source after them. -/
def drawsOf (lo hi : Nat) : Nat → RandomSource → List Nat × RandomSource
  | 0, g => ([], g)
  | n + 1, g =>
    let first := g.drawRange lo hi
    let rest := drawsOf lo hi n first.2
    (first.1 :: rest.1, rest.2)

/-- Base `a` passes a round for candidate `c` (R510): with c − 1 = 2^k·t and t odd, a^t is 1 mod c, or one of a^t, a^(2t), …,
a^(2^(k−1)·t) is c − 1 mod c. A base that does not pass is a witness. -/
def PassesRound (c a : Nat) : Prop :=
  ∃ k t, c - 1 = 2 ^ k * t ∧ t % 2 = 1 ∧ (a ^ t % c = 1 ∨ ∃ j, j < k ∧ a ^ (2 ^ j * t) % c = c - 1)

/-! ### The scan of ScalarMult, as R459 states it -/

/-- ScalarMult(k, P) answers `r` (R459), said apart from the machine's own scan: the accumulator R and the running point A
take values R_0, R_1, …, R_256 and A_0, A_1, …, A_256 with R_0 = O and A_0 = P; turn i, of 256, adds A_i to R_i where bit i
of k is 1, and doubles A_i, without an addition that raises; and r is R_256. -/
def ScanAnswers (c : Curve) (k : Nat) (p r : Point) : Prop :=
  ∃ acc run : Nat → Point, acc 0 = .identity ∧ run 0 = p ∧
    (∀ i, i < 256 →
      (if k / 2 ^ i % 2 = 1 then pointAdd c (acc i) (run i) = some (acc (i + 1)) else acc (i + 1) = acc i) ∧
      pointAdd c (run i) (run i) = some (run (i + 1))) ∧
    acc 256 = r

/-! ### The rounds of Salsa20 on sixteen numbered words, as R551 and R554 state them -/

/-- (x[i], x[j], x[k], x[l]) <- QuarterRound(x[i], x[j], x[k], x[l]) (R551, R554). -/
def quarterAt (i j k l : Nat) (x : Nat → Word) : Nat → Word :=
  let z1 := x j ^^^ (x i + x l).rotateLeft 7
  let z2 := x k ^^^ (z1 + x i).rotateLeft 9
  let z3 := x l ^^^ (z2 + z1).rotateLeft 13
  let z0 := x i ^^^ (z3 + z2).rotateLeft 18
  fun m => if m = i then z0 else if m = j then z1 else if m = k then z2 else if m = l then z3 else x m

/-- ColumnRound on the index tuples of R554, in its order. -/
def columnRoundAt (x : Nat → Word) : Nat → Word :=
  quarterAt 15 3 7 11 (quarterAt 10 14 2 6 (quarterAt 5 9 13 1 (quarterAt 0 4 8 12 x)))

/-- RowRound on the index tuples of R554, in its order. -/
def rowRoundAt (x : Nat → Word) : Nat → Word :=
  quarterAt 15 12 13 14 (quarterAt 10 11 8 9 (quarterAt 5 6 7 4 (quarterAt 0 1 2 3 x)))

/-- `n` DoubleRounds in turn (R554, R555). -/
def doubleRoundsAt : Nat → (Nat → Word) → Nat → Word
  | 0, x => x
  | n + 1, x => doubleRoundsAt n (rowRoundAt (columnRoundAt x))

/-- Word `i` of Words(s), little-endian (R550). -/
def wordAt (s : List Byte) (i : Nat) : Word := BitVec.ofNat 32 (leNat ((s.drop (4 * i)).take 4))

/-! ### What a command left unchanged -/

/-- The configuration, the control registers that no command writes, and the host's side. -/
def ControlKept (s t : State) : Prop :=
  t.cfg = s.cfg ∧ t.cmd = s.cmd ∧ t.ie = s.ie ∧ t.osel = s.osel ∧ t.readData = s.readData ∧ t.agenda = s.agenda

/-- Nothing changed but operand registers of `rs`, identity tags of `js`, the completion status, and the model's own
fields: every other register and mark, every other tag, every byte of DMEM, every descriptor, every control register. -/
def OnlyRegisters (rs : List Reg) (js : List Pair) (s t : State) : Prop :=
  (∀ r : Reg, r ∉ rs → t.x[r.val] = s.x[r.val]) ∧
    (∀ j : Pair, j ∉ js → t.isIdentity j = s.isIdentity j) ∧
    (∀ a, t.dmem.read a = s.dmem.read a) ∧
    t.desc = s.desc ∧ ControlKept s t

/-- Nothing changed but the n bytes of DMEM from offset a, LEN_D, the completion status, and the model's own fields: every
operand register and mark, every tag, every other byte of DMEM, every other descriptor, every control register. -/
def OnlyOutput (a n : Nat) (s t : State) : Prop :=
  (∀ r : Reg, t.x[r.val] = s.x[r.val]) ∧
    t.tag = s.tag ∧
    (∀ b, ¬ (a ≤ b ∧ b < a + n) → t.dmem.read b = s.dmem.read b) ∧
    t.desc = { s.desc with lenD := t.desc.lenD } ∧ ControlKept s t

/-- No destination was written: no operand register, no tag, no DMEM byte, no descriptor, LEN_D among them (R600). -/
def NothingWritten (s t : State) : Prop := OnlyRegisters [] [] s t

end Sys2Proof.Machine
end

