-- ==== Sys2Proof/Certificates/Slice0/Obligations.lean ====
section
/-! DEFINITION. The statements for the provers, in the order of OBLIGATIONS.json: encoding, the command cycle, the host interface,
reset, rules of the whole machine, then each family's results and errors, and laws of the functions behind them. -/

open Sys2Proof Sys2Proof.Machine

/-! ### Encoding -/

/-- R300, R302, R303: no field of a command is dropped by its encoding, for every command and every operand value. -/
def Obligations.DecodingAnEncodingGivesTheCommand : Prop :=
  ∀ i : Instr, decode (encode i) = .ok i

/-- R303, R304: a word that decodes to a command is that command's one encoding, so each row selects exactly one word per
operand choice. -/
def Obligations.OnlyItsEncodingDecodesToACommand : Prop :=
  ∀ (w : Word) (i : Instr), decode w = .ok i → encode i = w

/-- R304: the OPC values that are not in the map, and only they, are rejected as unassigned. -/
def Obligations.UnassignedOpcodesAreNoCommand : Prop :=
  ∀ w : Word,
    decode w = .error .unassignedOpcode ↔
      (0x04 ≤ w.toNat % 256 ∧ w.toNat % 256 ≤ 0x07) ∨ (0x09 ≤ w.toNat % 256 ∧ w.toNat % 256 ≤ 0x0F) ∨
      (0x14 ≤ w.toNat % 256 ∧ w.toNat % 256 ≤ 0x17) ∨ (0x1B ≤ w.toNat % 256 ∧ w.toNat % 256 ≤ 0x1F) ∨
      (0x25 ≤ w.toNat % 256 ∧ w.toNat % 256 ≤ 0x2F) ∨ (0x34 ≤ w.toNat % 256 ∧ w.toNat % 256 ≤ 0x37) ∨
      0x3A ≤ w.toNat % 256

/-- Words written out from R300 and R302 (V-ENC1) decode to the commands they stand for. -/
def Obligations.WordsWrittenOutFromTheFormatDecode : Prop :=
  decode 0x00000000#32 = .ok .nop ∧
  decode 0x01040301#32 = .ok (.montMul 3 0 1 2) ∧
  decode 0x01000308#32 = .ok (.modInv 3 0 2) ∧
  decode 0x0000C412#32 = .ok (.ecSmul 4 6 0) ∧
  decode 0x0298081A#32 = .ok (.egDec 8 0 6 5) ∧
  decode 0xF003FF20#32 = .ok (.rsaPrimeTest 31 31 15) ∧
  decode 0x00000033#32 = .ok .salsaXor ∧
  decode 0x00000039#32 = .ok .ofbDec

/-! ### The command cycle -/

/-- R401, R402, R214: while BUSY, the sequencer's step executes the held word's command. In either phase, and whatever CMD
holds, a host access (the CMD write that is accepted among them) or a reset on the agenda is one step of its own, and what
stands on the agenda after the event is left for later steps. In phase IDLE a step of the sequencer changes nothing, and
neither does a step with nothing on the agenda (the agenda: entry 10). -/
def Obligations.StepRunsTheHeldCommand : Prop :=
  ∀ (s : State) (i : Instr) (rest : List Event), admitted s.cfg = true →
    (s.status.busy = true → decode s.cmd = .ok i →
      (s.agenda = [] → step s = exec i s) ∧
      (s.agenda = .sequencer :: rest → step s = exec i { s with agenda := rest })) ∧
    (s.status.busy = false →
      (s.agenda = [] → step s = .next s) ∧
      (s.agenda = .sequencer :: rest → step s = .next { s with agenda := rest })) ∧
    (∀ a, s.agenda = .host a :: rest → step s = .next (hostAccess a { s with agenda := rest })) ∧
    (s.agenda = .rst :: rest → step s = .next (State.hardwareReset { s with agenda := rest }))

/-- R400, R106: a CMD write is accepted while BUSY = 0, and dropped with OVR while BUSY = 1. An acceptance also sets the
model's own count of a search's steps, `attempts`, to 0, which is no state of the spec (entry 9). -/
def Obligations.CmdWriteIsAcceptedOrDropped : Prop :=
  ∀ (s : State) (w : Word),
    (s.status.busy = false →
      hostAccess (.write 32 0x000#32 w) s =
        { s with cmd := w, status := { s.status with busy := true, done := false, err := false }, errcode := 0#8,
                 attempts := 0 }) ∧
    (s.status.busy = true →
      hostAccess (.write 32 0x000#32 w) s = { s with status := { s.status with ovr := true } })

/-- R601, R304: a word that is no command completes with ILLEGAL_OPCODE, reads nothing, draws nothing, writes nothing, both
where the agenda is empty and where it lets the sequencer move (the agenda: entry 10). -/
def Obligations.WordThatIsNoCommandRaisesIllegalOpcode : Prop :=
  ∀ (s : State) (e : DecodeError) (rest : List Event), admitted s.cfg = true → s.status.busy = true →
    decode s.cmd = .error e →
    (s.agenda = [] → ∃ t, step s = .next t ∧ FailedWith 0x01#8 s t ∧ NothingWritten s t ∧ Quiet s t) ∧
    (s.agenda = .sequencer :: rest →
      ∃ t, step s = .next t ∧ FailedWith 0x01#8 { s with agenda := rest } t ∧
        NothingWritten { s with agenda := rest } t ∧ Quiet { s with agenda := rest } t)

/-- R622, O20: no state is stuck. In an admitted configuration every step leads to a next state. -/
def Obligations.AdmittedStepAlwaysHasANextState : Prop :=
  ∀ s : State, admitted s.cfg = true → ∃ t, step s = .next t

/-- R8, R9, R622: the configurations that are refused before any step are exactly those that do not meet the conditions of R8
and R9 together with the base point's range, 0 ≤ Gx, Gy < p. That range is the model's deduction from R452, for R9 does not
list it (entry 2). The short cut inside `admitted` for the two configurations the spec gives is the model's as well (entry
2), and changes nothing. -/
def Obligations.RefusedConfigurationsAreTheIllFormed : Prop :=
  ∀ s : State, step s = .refused .illFormedConfiguration ↔ ¬ wellFormedConfig s.cfg

/-- R401, R600, R621: every command but the two prime searches completes in one step of the sequencer, whatever the draws;
and a command that completes reports exactly one code of the table in ERRCODE, with ERR saying whether it is not OK, DONE
set, and the sticky bits untouched. -/
def Obligations.CommandsCompleteWithOneCode : Prop :=
  ∀ (i : Instr) (s : State), s.status.busy = true → ∃ t, exec i s = .next t ∧
    ((∀ rd ra, i ≠ .rsaGenPrime rd ra) → (∀ rd ra rb rc, i ≠ .rsaKeygen rd ra rb rc) → t.status.busy = false) ∧
    (t.status.busy = false →
      t.status.done = true ∧ t.status.err = decide (t.errcode ≠ 0#8) ∧ t.errcode.toNat ≤ 7 ∧
        t.status.ovr = s.status.ovr ∧ t.status.haz = s.status.haz ∧ t.status.buserr = s.status.buserr)

/-- R600: a command that raises an error writes no destination and leaves the descriptor registers unchanged. -/
def Obligations.ErrorWritesNoDestination : Prop :=
  ∀ (i : Instr) (s t : State), exec i s = .next t → t.status.busy = false → t.errcode ≠ 0#8 →
    s.status.busy = true → NothingWritten s t

/-- R602: ILLEGAL_OPERAND is raised by exactly the commands whose operand fields break the table's conditions, before
anything is read or drawn. -/
def Obligations.IllegalOperandIsRaisedByIllFormedCommands : Prop :=
  ∀ (i : Instr) (s : State), s.errcode = 0#8 →
    (i.wellFormed = false → ∃ t, exec i s = .next t ∧ FailedWith 0x02#8 s t ∧ NothingWritten s t ∧ Quiet s t) ∧
    (i.wellFormed = true → ∀ t, exec i s = .next t → t.errcode ≠ 0x02#8)

/-! ### The host interface -/

/-- R202: an access that is not 32 bits wide, misaligned or unmapped sets BUSERR; its read returns 0, its write changes nothing
else. Any other access is supported and sets no BUSERR, a write to ERRCODE or CAPS among them, which is ignored. The mapped
offsets are written out from R105 and R201. -/
def Obligations.UnsupportedAccessSetsBuserr : Prop :=
  ∀ (s : State) (bits : Nat) (off data : Word),
    ((bits ≠ 32 ∨ off.toNat % 4 ≠ 0 ∨
      (¬ (off.toNat ≤ 0x018 ∨ (0x020 ≤ off.toNat ∧ off.toNat ≤ 0x044)) ∧
       ¬ (0x1000 ≤ off.toNat ∧ off.toNat < 0x1000 + s.cfg.opw / 8) ∧
       ¬ (0x10000 ≤ off.toNat ∧ off.toNat < 0x10000 + s.cfg.dmemBytes))) →
      hostAccess (.read bits off) s = { s with status := { s.status with buserr := true }, readData := some 0#32 } ∧
      hostAccess (.write bits off data) s = { s with status := { s.status with buserr := true } }) ∧
    (bits = 32 → off.toNat % 4 = 0 →
      (off.toNat ≤ 0x018 ∨ (0x020 ≤ off.toNat ∧ off.toNat ≤ 0x044) ∨
        (0x1000 ≤ off.toNat ∧ off.toNat < 0x1000 + s.cfg.opw / 8) ∨
        (0x10000 ≤ off.toNat ∧ off.toNat < 0x10000 + s.cfg.dmemBytes)) →
      (hostAccess (.read bits off) s).status = s.status ∧
      (s.status.buserr = false → (hostAccess (.write bits off data) s).status.buserr = false)) ∧
    hostAccess (.write 32 0x008#32 data) s = s ∧ hostAccess (.write 32 0x018#32 data) s = s

/-- R202, R210: a supported read changes no state of the core: at most the model's record of an UNWRITTEN_READ (entry 4),
the value on the bus and the count of free values. -/
def Obligations.SupportedReadHasNoSideEffect : Prop :=
  ∀ (s : State) (off : Word), off.toNat % 4 = 0 →
    (off.toNat ≤ 0x018 ∨ (0x020 ≤ off.toNat ∧ off.toNat ≤ 0x044) ∨
      (0x1000 ≤ off.toNat ∧ off.toNat < 0x1000 + s.cfg.opw / 8) ∨
      (0x10000 ≤ off.toNat ∧ off.toNat < 0x10000 + s.cfg.dmemBytes)) →
    ∃ (r : Option Word) (n : Nat) (u : Bool),
      hostAccess (.read 32 off) s = { s with readData := r, stamp := n, unwrittenRead := u } ∧
      (s.unwrittenRead = true → u = true) ∧
      (off.toNat < 0x1000 → r ≠ none ∧ n = s.stamp ∧ u = s.unwrittenRead)

/-- R207: while BUSY = 1, a host write to INF, a descriptor, the operand window or the DMEM window is dropped, sets HAZ and
changes nothing else; a read of a window returns some word and records nothing (the word is free: entry 7); OSEL takes a
write as ever. -/
def Obligations.InputWritesAreDroppedWhileBusy : Prop :=
  ∀ (s : State) (off data : Word), s.status.busy = true → off.toNat % 4 = 0 →
    ((off.toNat = 0x010 ∨ (0x020 ≤ off.toNat ∧ off.toNat ≤ 0x044) ∨
        (0x1000 ≤ off.toNat ∧ off.toNat < 0x1000 + s.cfg.opw / 8) ∨
        (0x10000 ≤ off.toNat ∧ off.toNat < 0x10000 + s.cfg.dmemBytes)) →
      hostAccess (.write 32 off data) s = { s with status := { s.status with haz := true } }) ∧
    (((0x1000 ≤ off.toNat ∧ off.toNat < 0x1000 + s.cfg.opw / 8) ∨
        (0x10000 ≤ off.toNat ∧ off.toNat < 0x10000 + s.cfg.dmemBytes)) →
      ∃ w, hostAccess (.read 32 off) s = { s with readData := some w, stamp := s.stamp + 1 }) ∧
    ∃ r : Reg, r.val = data.toNat % 32 ∧ hostAccess (.write 32 0x014#32 data) s = { s with osel := r }

/-- R102, R203: a host write of window word w replaces exactly those 32 bits of x[OSEL.SEL] and marks the register written,
and changes nothing else: no other register, no identity tag (R104), no register of the page, no byte of DMEM, and not the
configuration. Where the register was not written, its other words are free values and the model's count of them advances
(entries 6 and 12). -/
def Obligations.OperandWindowWriteReplacesOneWord : Prop :=
  ∀ (s : State) (w : Nat) (data off : Word), s.status.busy = false → s.cfg.opw ≤ 32768 → w < s.cfg.opw / 32 →
    off.toNat = 0x1000 + 4 * w →
    ∃ t, hostAccess (.write 32 off data) s = t ∧
      windowWord (t.reg s.osel) w = data ∧ t.written s.osel = true ∧
      (s.written s.osel = true →
        t.stamp = s.stamp ∧ ∀ v, v ≠ w → windowWord (t.reg s.osel) v = windowWord (s.reg s.osel) v) ∧
      (∀ r : Reg, r ≠ s.osel → t.x[r.val] = s.x[r.val]) ∧ t = { s with x := t.x, stamp := t.stamp } ∧
      hostAccess (.read 32 off) t = { t with readData := some data }

/-- R204: the DMEM window is little-endian: while BUSY = 0, a word whose four bytes have been written reads with bits 7:0,
15:8, 23:16, 31:24 from four rising offsets, and a word written stores them there and changes no other byte. -/
def Obligations.DmemWindowIsLittleEndian : Prop :=
  ∀ (s : State) (k : Nat) (data off : Word), s.status.busy = false → s.cfg.opw ≤ 32768 → k < s.cfg.dmemBytes / 4 →
    off.toNat = 0x10000 + 4 * k →
    (∀ b0 b1 b2 b3 : Byte, s.dmem.read (4 * k) = some b0 → s.dmem.read (4 * k + 1) = some b1 →
      s.dmem.read (4 * k + 2) = some b2 → s.dmem.read (4 * k + 3) = some b3 →
      ∃ d : Word, hostAccess (.read 32 off) s = { s with readData := some d } ∧
        d.extractLsb' 0 8 = b0 ∧ d.extractLsb' 8 8 = b1 ∧ d.extractLsb' 16 8 = b2 ∧ d.extractLsb' 24 8 = b3) ∧
    ∃ m, hostAccess (.write 32 off data) s = { s with dmem := m } ∧
      m.read (4 * k) = some (data.extractLsb' 0 8) ∧ m.read (4 * k + 1) = some (data.extractLsb' 8 8) ∧
      m.read (4 * k + 2) = some (data.extractLsb' 16 8) ∧ m.read (4 * k + 3) = some (data.extractLsb' 24 8) ∧
      ∀ a, ¬ (4 * k ≤ a ∧ a < 4 * k + 4) → m.read a = s.dmem.read a

/-- R107: STATUS reads its six fields in bits 5:0 and zero above; a write clears the sticky bits written as 1, leaves BUSY,
and is accepted in either phase. -/
def Obligations.StatusReadsItsFieldsAndClearsOnes : Prop :=
  ∀ (s : State) (w : Word),
    hostAccess (.read 32 0x004#32) s = { s with readData := some s.status.toWord } ∧
    (∀ k, s.status.toWord.getLsbD k =
      match k with
      | 0 => s.status.busy
      | 1 => s.status.done
      | 2 => s.status.err
      | 3 => s.status.ovr
      | 4 => s.status.haz
      | 5 => s.status.buserr
      | _ => false) ∧
    ∃ t, hostAccess (.write 32 0x004#32 w) s = { s with status := t } ∧ t.busy = s.status.busy ∧
      t.done = (s.status.done && !w.getLsbD 1) ∧ t.err = (s.status.err && !w.getLsbD 2) ∧
      t.ovr = (s.status.ovr && !w.getLsbD 3) ∧ t.haz = (s.status.haz && !w.getLsbD 4) ∧
      t.buserr = (s.status.buserr && !w.getLsbD 5)

/-- R105, R106, R108 to R113: while BUSY = 0, INF, OSEL and each descriptor register take a host write and read back with
their reserved bits 0, without a change to any other register of the page, to an operand register or to DMEM; ERRCODE and
CAPS discard writes; CMD, ERRCODE, CTRL and CAPS read as the rules say. (CAPS.DMEMK where DMEM_BYTES/1024 does not fit its
16 bits is a free value, of which nothing is said: entry 22.) -/
def Obligations.RegisterPageReadsBack : Prop :=
  ∀ (s : State) (w : Word), s.status.busy = false →
    (∀ p ∈ inputRegisters, ∃ t, hostAccess (.write 32 p.1 w) s = t ∧
      hostAccess (.read 32 p.1) t = { t with readData := some (w &&& p.2) } ∧
      (∀ q ∈ inputRegisters, q.1 ≠ p.1 →
        (hostAccess (.read 32 q.1) t).readData = (hostAccess (.read 32 q.1) s).readData) ∧
      t.x = s.x ∧ t.dmem = s.dmem ∧ t.status = s.status ∧ t.errcode = s.errcode ∧ t.cmd = s.cmd ∧ t.ie = s.ie) ∧
    hostAccess (.write 32 0x008#32 w) s = s ∧ hostAccess (.write 32 0x018#32 w) s = s ∧
    hostAccess (.read 32 0x000#32) s = { s with readData := some s.cmd } ∧
    hostAccess (.read 32 0x008#32) s = { s with readData := some (s.errcode.setWidth 32) } ∧
    hostAccess (.read 32 0x00C#32) s = { s with readData := some (if s.ie then 1#32 else 0#32) } ∧
    ∃ v : Word, hostAccess (.read 32 0x018#32) s = { s with readData := some v } ∧
      (s.cfg.opw / 32 < 65536 → v.toNat % 65536 = s.cfg.opw / 32 ∧
        (s.cfg.dmemBytes / 1024 < 65536 → v.toNat / 65536 = s.cfg.dmemBytes / 1024))

/-- R610: irq is CTRL.IE AND STATUS.DONE; the host clears it by writing 1 to DONE, by clearing IE, or by the acceptance of
the next command. -/
def Obligations.InterruptIsEnabledCompletion : Prop :=
  ∀ (s : State) (w : Word),
    s.irq = (s.ie && s.status.done) ∧
    (w.getLsbD 1 = true → (hostAccess (.write 32 0x004#32 w) s).irq = false) ∧
    (w.getLsbD 0 = false → (hostAccess (.write 32 0x00C#32 w) s).irq = false) ∧
    (s.status.busy = false → (hostAccess (.write 32 0x000#32 w) s).irq = false)

/-! ### Reset -/

/-- R700, R701, R119: reset puts the phase at IDLE and every register of the page at 0, and marks every operand register and
DMEM byte not written, from every state; irq is 0, and the configuration and the random source are untouched (R703). A
CTRL write with SRST = 1 has exactly the effect of HardwareReset, in either phase, and applies no other bit of the write;
with SRST = 0 it writes IE alone (R109). -/
def Obligations.BothResetsLeaveTheTable : Prop :=
  ∀ (s : State) (w : Word), ∃ t, State.hardwareReset s = t ∧
    t.status.toWord = 0#32 ∧ t.cmd = 0#32 ∧ t.errcode = 0#8 ∧ t.ie = false ∧ t.tag = 0#16 ∧ t.osel = 0 ∧
    t.desc = ⟨0#32, 0#32, 0#32, 0#32, 0#32, 0#32, 0#32, 0#32, 0#32, 0#32⟩ ∧
    (∀ r : Reg, t.written r = false) ∧ (∀ a, t.dmem.read a = none) ∧ t.irq = false ∧
    t.cfg = s.cfg ∧ t.rng = s.rng ∧
    (w.getLsbD 1 = true → hostAccess (.write 32 0x00C#32 w) s = t) ∧
    (w.getLsbD 1 = false → hostAccess (.write 32 0x00C#32 w) s = { s with ie := w.getLsbD 0 })

/-! ### Rules of the whole machine -/

/-- An invariant every step keeps, from any state: R100, R205, R107, R108, R600 (see `Inv`). -/
def Obligations.EveryStepKeepsTheInvariant : Prop :=
  ∀ s t : State, Inv s → step s = .next t → Inv t

/-- The invariant holds after reset. (Its clause on register values rests at reset on the model's value 0, entry 3.) -/
def Obligations.TheStateAfterResetMeetsTheInvariant : Prop := Inv State.reset

/-- R118, R703, R609: no step changes the configuration, and no step takes back a recorded UNWRITTEN_READ (the record: entry
4). -/
def Obligations.NoStepChangesConfigurationOrClearsTheFault : Prop :=
  ∀ s t : State, step s = .next t → t.cfg = s.cfg ∧ (s.unwrittenRead = true → t.unwrittenRead = true)

/-- R104: a command changes an identity tag only where it writes that pair as a point, and a host access changes one only by a
write to INF; the soft reset of a CTRL write (R701) clears INF as every register of the page. -/
def Obligations.TagsChangeOnlyWithTheirPair : Prop :=
  (∀ (i : Instr) (s t : State) (j : Pair), exec i s = .next t → t.isIdentity j ≠ s.isIdentity j →
    (∃ rd ra rb, i = .ecAdd rd ra rb ∧ j = pairOf rd) ∨ (∃ rd ra, i = .ecDbl rd ra ∧ j = pairOf rd) ∨
    (∃ rd ra rb, i = .ecSmul rd ra rb ∧ j = pairOf rd) ∨ (∃ rd rb, i = .egKeygen rd rb ∧ j = pairOf rb) ∨
    (∃ rd ra rb rc, i = .egEnc rd ra rb rc ∧ j = pairOf rd)) ∧
  ∀ (a : HostAccess) (s : State), (hostAccess a s).tag ≠ s.tag →
    (∃ data, a = .write 32 0x010#32 data) ∨ ∃ data : Word, a = .write 32 0x00C#32 data ∧ data.getLsbD 1 = true

/-- R113, R114, R106, R109, R111: no command writes a descriptor register other than LEN_D, nor CMD, CTRL or OSEL; LEN_D
changes only with a command that writes DMEM, and DMEM only with one of the seven commands that store an output. -/
def Obligations.CommandsWriteNoOtherControlRegister : Prop :=
  ∀ (i : Instr) (s t : State), exec i s = .next t →
    t.desc = { s.desc with lenD := t.desc.lenD } ∧ ControlKept s t ∧
    (t.desc ≠ s.desc ∨ t.dmem ≠ s.dmem →
      (∃ ra rb, i = .rsaSign ra rb) ∨ i = .salsaQr ∨ i = .salsaBlock ∨ i = .salsaKs ∨ i = .salsaXor ∨ i = .ofbEnc ∨
        i = .ofbDec)

/-- R609, R101, R205: a command that gets as far as reading a source not written since reset records UNWRITTEN_READ, command by
command: register sources, coordinates of a pair that does not show the identity, and DMEM bytes of a source region; the two
prime searches record it with their completion, with or without error. So do, while BUSY = 0, an operand-window read of a
register not written and a DMEM-window read of a word with a byte not written, which return no value. (The record: entry 4;
the missing value: entry 11; when a search completes: entry 9.) -/
def Obligations.ReadingTheUnwrittenIsRecorded : Prop :=
  ∀ s t : State,
    (∀ rd ra rb rc r, r ∈ [ra, rb, rc] → s.written r = false → (exec (.montMul rd ra rb rc) s = .next t ∨
      exec (.modMul rd ra rb rc) s = .next t ∨ exec (.modExp rd ra rb rc) s = .next t) → t.unwrittenRead = true) ∧
    (∀ rd ra rc r, r ∈ [ra, rc] → s.written r = false → exec (.modInv rd ra rc) s = .next t → t.unwrittenRead = true) ∧
    (∀ rd ra, Reg.isEven ra = true → ¬ PointReady (pairOf ra) s → exec (.ecOnCurve rd ra) s = .next t →
      t.unwrittenRead = true) ∧
    (∀ rd ra rb, (Instr.ecAdd rd ra rb).wellFormed = true →
      (¬ PointReady (pairOf ra) s ∨ ¬ PointReady (pairOf rb) s) → exec (.ecAdd rd ra rb) s = .next t →
      t.unwrittenRead = true) ∧
    (∀ rd ra, (Instr.ecDbl rd ra).wellFormed = true → ¬ PointReady (pairOf ra) s → exec (.ecDbl rd ra) s = .next t →
      t.unwrittenRead = true) ∧
    (∀ rd ra rb, (Instr.ecSmul rd ra rb).wellFormed = true →
      (s.written ra = false ∨ ¬ PointReady (pairOf rb) s) → exec (.ecSmul rd ra rb) s = .next t →
      t.unwrittenRead = true) ∧
    (∀ rd ra rb rc, (Instr.egEnc rd ra rb rc).wellFormed = true →
      (¬ PointReady (pairOf ra) s ∨ s.written rb = false) → exec (.egEnc rd ra rb rc) s = .next t →
      t.unwrittenRead = true) ∧
    (∀ rd ra rb rc, (Instr.egDec rd ra rb rc).wellFormed = true →
      (s.written ra = false ∨ ¬ PointReady (pairOf rb) s ∨ s.written rc = false) →
      exec (.egDec rd ra rb rc) s = .next t → t.unwrittenRead = true) ∧
    (∀ rd ra aux, s.written ra = false → exec (.rsaPrimeTest rd ra aux) s = .next t → t.unwrittenRead = true) ∧
    (∀ i rd ra rb rc, (i = .rsaGenPrime rd ra ∨ i = .rsaKeygen rd ra rb rc) → i.wellFormed = true →
      s.written ra = false → s.status.busy = true → exec i s = .next t → t.status.busy = false →
      t.unwrittenRead = true) ∧
    (∀ i rd ra rb, (i = .rsaSign ra rb ∨ i = .rsaVerify rd ra rb) → (s.written ra = false ∨ s.written rb = false) →
      exec i s = .next t → t.unwrittenRead = true) ∧
    (∀ ra rb k, s.desc.addrA.toNat + s.desc.lenA.toNat ≤ s.cfg.dmemBytes →
      s.desc.addrD.toNat + nbytes (s.reg ra) ≤ s.cfg.dmemBytes → k < s.desc.lenA.toNat →
      s.dmem.read (s.desc.addrA.toNat + k) = none → exec (.rsaSign ra rb) s = .next t → t.unwrittenRead = true) ∧
    (∀ rd ra rb k, s.desc.addrA.toNat + s.desc.lenA.toNat ≤ s.cfg.dmemBytes →
      s.desc.addrB.toNat + s.desc.lenB.toNat ≤ s.cfg.dmemBytes →
      (k < s.desc.lenA.toNat ∧ s.dmem.read (s.desc.addrA.toNat + k) = none ∨
        k < s.desc.lenB.toNat ∧ s.dmem.read (s.desc.addrB.toNat + k) = none) →
      exec (.rsaVerify rd ra rb) s = .next t → t.unwrittenRead = true) ∧
    (∀ i n k, (i = .salsaQr ∧ n = 16 ∨ i = .salsaBlock ∧ n = 64) → k < n →
      s.desc.addrA.toNat + n ≤ s.cfg.dmemBytes → s.desc.addrD.toNat + n ≤ s.cfg.dmemBytes →
      s.dmem.read (s.desc.addrA.toNat + k) = none → exec i s = .next t → t.unwrittenRead = true) ∧
    (∀ i k, (i = .salsaKs ∨ i = .salsaXor ∨ i = .ofbEnc ∨ i = .ofbDec) → s.desc.lenK = 32#32 → s.desc.lenN = 8#32 →
      s.desc.addrK.toNat + 32 ≤ s.cfg.dmemBytes → s.desc.addrN.toNat + 8 ≤ s.cfg.dmemBytes →
      s.desc.addrD.toNat + s.desc.lenA.toNat ≤ s.cfg.dmemBytes →
      (i ≠ .salsaKs → s.desc.addrA.toNat + s.desc.lenA.toNat ≤ s.cfg.dmemBytes) →
      (k < 32 ∧ s.dmem.read (s.desc.addrK.toNat + k) = none ∨ k < 8 ∧ s.dmem.read (s.desc.addrN.toNat + k) = none ∨
        i ≠ .salsaKs ∧ k < s.desc.lenA.toNat ∧ s.dmem.read (s.desc.addrA.toNat + k) = none) →
      exec i s = .next t → t.unwrittenRead = true) ∧
    (∀ off : Word, off.toNat % 4 = 0 → 0x1000 ≤ off.toNat → off.toNat < 0x1000 + s.cfg.opw / 8 →
      s.written s.osel = false → s.status.busy = false →
      hostAccess (.read 32 off) s = { s with readData := none, unwrittenRead := true }) ∧
    (∀ (off : Word) (k j : Nat), s.cfg.opw ≤ 32768 → k < s.cfg.dmemBytes / 4 → off.toNat = 0x10000 + 4 * k → j < 4 →
      s.dmem.read (4 * k + j) = none → s.status.busy = false →
      hostAccess (.read 32 off) s = { s with readData := none, unwrittenRead := true })

/-! ### NOP and the Montgomery multiplier family -/

/-- R405: NOP writes nothing but the completion status; the only word with OPC 0x00 that is NOP is 0x00000000, and any other
raises ILLEGAL_OPCODE, in the step of a BUSY machine with an empty agenda (the agenda: entry 10). -/
def Obligations.NopOnlyCompletes : Prop :=
  (∀ s : State, ∃ t, exec .nop s = .next t ∧ Succeeded s t ∧ NothingWritten s t ∧ Quiet s t) ∧
    decode 0x00000000#32 = .ok .nop ∧
    ∀ w : Word, w.toNat % 256 = 0 → w ≠ 0x00000000#32 →
      decode w = .error .reservedField ∧
      ∀ s : State, admitted s.cfg = true → s.status.busy = true → s.agenda = [] → s.cmd = w →
        ∃ t, step s = .next t ∧ FailedWith 0x01#8 s t ∧ NothingWritten s t ∧ Quiet s t

/-- R410, R411: for an odd m and a, b < m, MONT_MUL writes the value r below m with R_MONT·r ≡ a·b (mod m), R_MONT = 2^OPW,
and changes no other destination. -/
def Obligations.MontMulWritesTheMontgomeryProduct : Prop :=
  ∀ (rd ra rb rc : Reg) (s : State), Written [ra, rb, rc] s → s.reg rc % 2 = 1 → s.reg ra < s.reg rc →
    s.reg rb < s.reg rc →
    ∃ t, exec (.montMul rd ra rb rc) s = .next t ∧
      t.reg rd < s.reg rc ∧ 2 ^ s.cfg.opw * t.reg rd % s.reg rc = s.reg ra * s.reg rb % s.reg rc ∧
      t.written rd = true ∧ Succeeded s t ∧ OnlyRegisters [rd] [] s t ∧ Quiet s t

/-- R413: for m ≥ 1, MOD_MUL writes a·b mod m, for operands of any size, and changes no other destination. -/
def Obligations.ModMulWritesTheProduct : Prop :=
  ∀ (rd ra rb rc : Reg) (s : State), Written [ra, rb, rc] s → s.reg rc ≠ 0 →
    ∃ t, exec (.modMul rd ra rb rc) s = .next t ∧ t.reg rd = s.reg ra * s.reg rb % s.reg rc ∧ t.written rd = true ∧
      Succeeded s t ∧ OnlyRegisters [rd] [] s t ∧ Quiet s t

/-- R415: for m ≥ 1, MOD_EXP writes the exact integer power g^e reduced mod m, with g^0 = 1, and changes no other
destination. -/
def Obligations.ModExpWritesTheExactPower : Prop :=
  ∀ (rd ra rb rc : Reg) (s : State), Written [ra, rb, rc] s → s.reg rc ≠ 0 →
    ∃ t, exec (.modExp rd ra rb rc) s = .next t ∧ t.reg rd = s.reg ra ^ s.reg rb % s.reg rc ∧ t.written rd = true ∧
      Succeeded s t ∧ OnlyRegisters [rd] [] s t ∧ Quiet s t

/-! ### The modular inverse -/

/-- R430, R431, R606: where gcd(a, m) = 1, MOD_INV writes the r in [0, m) with a·r ≡ 1 (mod m), which is 0 for m = 1; for
m > 1 and gcd(a, m) ≠ 1, a ≡ 0 among them, it raises NO_INVERSE and writes nothing. -/
def Obligations.ModInvWritesTheInverseOrRaises : Prop :=
  ∀ (rd ra rc : Reg) (s : State), Written [ra, rc] s → s.reg rc ≠ 0 →
    (Nat.gcd (s.reg ra) (s.reg rc) = 1 →
      ∃ t, exec (.modInv rd ra rc) s = .next t ∧ t.reg rd < s.reg rc ∧
        s.reg ra * t.reg rd % s.reg rc = 1 % s.reg rc ∧ t.written rd = true ∧
        Succeeded s t ∧ OnlyRegisters [rd] [] s t ∧ Quiet s t) ∧
    (Nat.gcd (s.reg ra) (s.reg rc) ≠ 1 →
      ∃ t, exec (.modInv rd ra rc) s = .next t ∧ FailedWith 0x06#8 s t ∧ NothingWritten s t ∧ Quiet s t)

/-! ### The elliptic-curve group -/

/-- R453, R458: EC_ON_CURVE writes 1 for the identity and for a point that satisfies the curve equation mod p, else 0, and
writes no tag. -/
def Obligations.EcOnCurveWritesTheTruthValue : Prop :=
  ∀ (rd ra : Reg) (s : State), Reg.isEven ra = true → PointReady (pairOf ra) s →
    (s.readPoint (pairOf ra)).inRange s.cfg.curve = true →
    ∃ t, exec (.ecOnCurve rd ra) s = .next t ∧
      t.reg rd = (match s.readPoint (pairOf ra) with
        | .identity => 1
        | .affine x y =>
          if y ^ 2 % s.cfg.curve.p = (x ^ 3 + s.cfg.curve.a * x + s.cfg.curve.b) % s.cfg.curve.p then 1 else 0) ∧
      t.written rd = true ∧ Succeeded s t ∧ OnlyRegisters [rd] [] s t ∧ Quiet s t

/-- R454, R460, R103: EC_ADD with an identity operand gives the other operand, and on the vertical line (same x, different y)
gives the identity, writing both registers of its pair, and its tag, alone. -/
def Obligations.EcAddIdentityAndVerticalLine : Prop :=
  ∀ (rd ra rb : Reg) (s : State) (p q r : Point), (Instr.ecAdd rd ra rb).wellFormed = true →
    PointReady (pairOf ra) s → PointReady (pairOf rb) s →
    s.readPoint (pairOf ra) = p → s.readPoint (pairOf rb) = q →
    p.inRange s.cfg.curve = true → q.inRange s.cfg.curve = true →
    ((p = .identity ∧ r = q) ∨ (q = .identity ∧ r = p) ∨
      (∃ x y1 y2, p = .affine x y1 ∧ q = .affine x y2 ∧ y1 ≠ y2 ∧ r = .identity)) →
    ∃ t, exec (.ecAdd rd ra rb) s = .next t ∧ t.readPoint (pairOf rd) = r ∧
      (r = .identity → t.reg (pairX (pairOf rd)) = 0 ∧ t.reg (pairY (pairOf rd)) = 0) ∧ PairWritten (pairOf rd) t ∧
      Succeeded s t ∧ OnlyRegisters [pairX (pairOf rd), pairY (pairOf rd)] [pairOf rd] s t ∧ Quiet s t

/-- R454 to R457, R460: EC_ADD of two finite points with different x completes, in a configuration that meets R9, with the
secant sum: a slope lam with lam·(x2 − x1) ≡ y2 − y1, and x3 ≡ lam² − x1 − x2, y3 ≡ lam·(x1 − x3) − y1 (mod p). -/
def Obligations.EcAddWritesTheSecantSum : Prop :=
  ∀ (rd ra rb : Reg) (s : State) (x1 y1 x2 y2 : Nat), curveOk s.cfg.curve → (Instr.ecAdd rd ra rb).wellFormed = true →
    PointReady (pairOf ra) s → PointReady (pairOf rb) s →
    s.readPoint (pairOf ra) = .affine x1 y1 → s.readPoint (pairOf rb) = .affine x2 y2 →
    x1 < s.cfg.curve.p → y1 < s.cfg.curve.p → x2 < s.cfg.curve.p → y2 < s.cfg.curve.p → x1 ≠ x2 →
    ∃ t lam x3 y3, exec (.ecAdd rd ra rb) s = .next t ∧ t.readPoint (pairOf rd) = .affine x3 y3 ∧
      x3 < s.cfg.curve.p ∧ y3 < s.cfg.curve.p ∧
      Nat.ModEq s.cfg.curve.p (lam * x2 + y1) (lam * x1 + y2) ∧
      Nat.ModEq s.cfg.curve.p (x3 + x1 + x2) (lam * lam) ∧
      Nat.ModEq s.cfg.curve.p (y3 + y1 + lam * x3) (lam * x1) ∧ PairWritten (pairOf rd) t ∧
      Succeeded s t ∧ OnlyRegisters [pairX (pairOf rd), pairY (pairOf rd)] [pairOf rd] s t ∧ Quiet s t

/-- R454, R455 (b), R462, R606: doubling by EC_DBL: the identity gives the identity; y = 0 raises NO_INVERSE with no write;
any other finite point completes with the tangent sum, 2·y·lam ≡ 3·x² + a (mod p), in a configuration that meets R9. EC_ADD
of two pairs that show the same point does exactly what EC_DBL does with it. -/
def Obligations.EcDblDoublesOrRaises : Prop :=
  ∀ (rd ra : Reg) (s : State), curveOk s.cfg.curve → (Instr.ecDbl rd ra).wellFormed = true →
    PointReady (pairOf ra) s →
    (s.readPoint (pairOf ra) = .identity →
      ∃ t, exec (.ecDbl rd ra) s = .next t ∧ t.readPoint (pairOf rd) = .identity ∧
        PairWritten (pairOf rd) t ∧ Succeeded s t ∧
        OnlyRegisters [pairX (pairOf rd), pairY (pairOf rd)] [pairOf rd] s t ∧ Quiet s t) ∧
    (∀ x, s.readPoint (pairOf ra) = .affine x 0 → x < s.cfg.curve.p →
      ∃ t, exec (.ecDbl rd ra) s = .next t ∧ FailedWith 0x06#8 s t ∧ NothingWritten s t ∧ Quiet s t) ∧
    (∀ x y, s.readPoint (pairOf ra) = .affine x y → x < s.cfg.curve.p → 0 < y → y < s.cfg.curve.p →
      ∃ t lam x3 y3, exec (.ecDbl rd ra) s = .next t ∧ t.readPoint (pairOf rd) = .affine x3 y3 ∧
        x3 < s.cfg.curve.p ∧ y3 < s.cfg.curve.p ∧
        Nat.ModEq s.cfg.curve.p (2 * y * lam) (3 * x ^ 2 + s.cfg.curve.a) ∧
        Nat.ModEq s.cfg.curve.p (x3 + x + x) (lam * lam) ∧
        Nat.ModEq s.cfg.curve.p (y3 + y + lam * x3) (lam * x) ∧ PairWritten (pairOf rd) t ∧
        Succeeded s t ∧ OnlyRegisters [pairX (pairOf rd), pairY (pairOf rd)] [pairOf rd] s t ∧ Quiet s t) ∧
    (∀ rb, Reg.isEven rb = true → PointReady (pairOf rb) s → s.readPoint (pairOf rb) = s.readPoint (pairOf ra) →
      exec (.ecAdd rd ra rb) s = exec (.ecDbl rd ra) s)

/-- R459, R464, R606: where no addition of the 256 turns of R459's scan raises (`ScanAnswers`), EC_SMUL writes the point the
scan answers, which is O for k = 0, P for k = 1 and P + P for k = 2; where one raises, it raises NO_INVERSE and writes
nothing, for k = 0 too, where R461 (a) says O for every P (the model follows R459: entry 14). The machine's `scalarMult`
answers exactly what that scan answers. In a configuration that meets R9, R461 (b): for P = ScalarMult(j, G) the scan answers,
and ScalarMult(k, P) = ScalarMult(j·k mod n, G). -/
def Obligations.EcSmulWritesTheMultiple : Prop :=
  (∀ (rd ra rb : Reg) (s : State), (Instr.ecSmul rd ra rb).wellFormed = true →
    Written [ra] s → PointReady (pairOf rb) s → (s.readPoint (pairOf rb)).inRange s.cfg.curve = true →
    s.reg ra < 2 ^ 256 →
    (∀ r : Point, ScanAnswers s.cfg.curve (s.reg ra) (s.readPoint (pairOf rb)) r →
      ∃ t, exec (.ecSmul rd ra rb) s = .next t ∧ t.readPoint (pairOf rd) = r ∧
        (s.reg ra = 0 → r = .identity) ∧ (s.reg ra = 1 → r = s.readPoint (pairOf rb)) ∧
        (s.reg ra = 2 → pointAdd s.cfg.curve (s.readPoint (pairOf rb)) (s.readPoint (pairOf rb)) = some r) ∧
        PairWritten (pairOf rd) t ∧ Succeeded s t ∧
        OnlyRegisters [pairX (pairOf rd), pairY (pairOf rd)] [pairOf rd] s t ∧ Quiet s t) ∧
    ((∀ r : Point, ¬ ScanAnswers s.cfg.curve (s.reg ra) (s.readPoint (pairOf rb)) r) →
      ∃ t, exec (.ecSmul rd ra rb) s = .next t ∧ FailedWith 0x06#8 s t ∧ NothingWritten s t ∧ Quiet s t)) ∧
  (∀ (c : Curve) (k : Nat) (p r : Point), k < 2 ^ 256 → (scalarMult c k p = some r ↔ ScanAnswers c k p r)) ∧
  (∀ (c : Curve) (j k : Nat) (p : Point), curveOk c → j < 2 ^ 256 → k < 2 ^ 256 →
    scalarMult c j (basePoint c) = some p →
    ∃ r, scalarMult c k p = some r ∧ scalarMult c (j * k % c.n) (basePoint c) = some r)

/-- R463 (IsOnCurve(PointAdd(P, Q)) = 1 and IsOnCurve(ScalarMult(k, P)) = 1), for every two points of the curve where the
function does not raise: the sum and the multiple lie on the curve. -/
def Obligations.SumsAndMultiplesStayOnTheCurve : Prop :=
  ∀ (c : Curve) (p q r : Point) (k : Nat), curveOk c → p.inRange c = true → q.inRange c = true →
    isOnCurve c p = true → isOnCurve c q = true →
    (pointAdd c p q = some r → isOnCurve c r = true ∧ r.inRange c = true) ∧
    (scalarMult c k p = some r → isOnCurve c r = true ∧ r.inRange c = true)

/-! ### EC-ElGamal -/

/-- R481, R482: in a configuration that meets R9, EG_KEYGEN always completes without error: it makes one draw d in [1, n − 1],
writes d, and writes in its pair the point d·G, which lies on the curve. -/
def Obligations.EgKeygenWritesAKeyPair : Prop :=
  ∀ (rd rb : Reg) (s : State), curveOk s.cfg.curve → (Instr.egKeygen rd rb).wellFormed = true →
    ∃ t, exec (.egKeygen rd rb) s = .next t ∧ t.reg rd = (s.rng.drawRange 1 (s.cfg.curve.n - 1)).1 ∧
      1 ≤ t.reg rd ∧ t.reg rd ≤ s.cfg.curve.n - 1 ∧ t.written rd = true ∧
      scalarMult s.cfg.curve (t.reg rd) (basePoint s.cfg.curve) = some (t.readPoint (pairOf rb)) ∧
      isOnCurve s.cfg.curve (t.readPoint (pairOf rb)) = true ∧ PairWritten (pairOf rb) t ∧
      t.rng = (s.rng.drawRange 1 (s.cfg.curve.n - 1)).2 ∧ t.rng.drawn = s.rng.drawn + 1 ∧
      t.unwrittenRead = s.unwrittenRead ∧ Succeeded s t ∧
      OnlyRegisters [rd, pairX (pairOf rb), pairY (pairOf rb)] [pairOf rb] s t

/-- R483: with the drawn k and a shared secret S = k·Q that is finite with S.x ≠ 0, EG_ENC writes C1 = k·G and
C2 = (m · S.x) mod p. -/
def Obligations.EgEncWritesTheCiphertext : Prop :=
  ∀ (rd ra rb rc : Reg) (s : State) (k sx sy : Nat) (c1 : Point), (Instr.egEnc rd ra rb rc).wellFormed = true →
    PointReady (pairOf ra) s → Written [rb] s → (s.readPoint (pairOf ra)).inRange s.cfg.curve = true →
    s.reg rb < s.cfg.curve.p → (s.rng.drawRange 1 (s.cfg.curve.n - 1)).1 = k →
    scalarMult s.cfg.curve k (basePoint s.cfg.curve) = some c1 →
    scalarMult s.cfg.curve k (s.readPoint (pairOf ra)) = some (.affine sx sy) → sx ≠ 0 →
    ∃ t, exec (.egEnc rd ra rb rc) s = .next t ∧ t.readPoint (pairOf rd) = c1 ∧
      t.reg rc = s.reg rb * sx % s.cfg.curve.p ∧ PairWritten (pairOf rd) t ∧ t.written rc = true ∧
      t.rng = (s.rng.drawRange 1 (s.cfg.curve.n - 1)).2 ∧ t.rng.drawn = s.rng.drawn + 1 ∧
      t.unwrittenRead = s.unwrittenRead ∧ Succeeded s t ∧
      OnlyRegisters [rc, pairX (pairOf rd), pairY (pairOf rd)] [pairOf rd] s t

/-- R484, R485, R606, R607: a shared secret that is the identity raises DEGENERATE in EG_ENC and EG_DEC, and one with S.x = 0
raises DEGENERATE in EG_ENC; where an addition of the scan of Q raises, EG_ENC raises NO_INVERSE, and so it does where one of the scan
of the base point raises, which is the model's own arm and met in no admitted configuration (entry 17). Nothing is written,
and EG_ENC's one draw is consumed. -/
def Obligations.DegenerateSecretIsRefused : Prop :=
  ∀ (rd ra rb rc : Reg) (s : State),
    (∀ k : Nat, (Instr.egEnc rd ra rb rc).wellFormed = true →
      PointReady (pairOf ra) s → Written [rb] s → (s.readPoint (pairOf ra)).inRange s.cfg.curve = true →
      s.reg rb < s.cfg.curve.p → (s.rng.drawRange 1 (s.cfg.curve.n - 1)).1 = k →
      (∀ c1 secret : Point, scalarMult s.cfg.curve k (basePoint s.cfg.curve) = some c1 →
        scalarMult s.cfg.curve k (s.readPoint (pairOf ra)) = some secret →
        (secret = .identity ∨ ∃ sy, secret = .affine 0 sy) →
        ∃ t, exec (.egEnc rd ra rb rc) s = .next t ∧ FailedWith 0x07#8 s t ∧ NothingWritten s t ∧
          t.rng = (s.rng.drawRange 1 (s.cfg.curve.n - 1)).2 ∧ t.unwrittenRead = s.unwrittenRead) ∧
      ((scalarMult s.cfg.curve k (basePoint s.cfg.curve) = none ∨
          scalarMult s.cfg.curve k (s.readPoint (pairOf ra)) = none) →
        ∃ t, exec (.egEnc rd ra rb rc) s = .next t ∧ FailedWith 0x06#8 s t ∧ NothingWritten s t ∧
          t.rng = (s.rng.drawRange 1 (s.cfg.curve.n - 1)).2 ∧ t.unwrittenRead = s.unwrittenRead)) ∧
    ((Instr.egDec rd ra rb rc).wellFormed = true → Written [ra, rc] s → PointReady (pairOf rb) s →
      (s.readPoint (pairOf rb)).inRange s.cfg.curve = true → s.reg ra < 2 ^ 256 → s.reg rc < s.cfg.curve.p →
      scalarMult s.cfg.curve (s.reg ra) (s.readPoint (pairOf rb)) = some .identity →
      ∃ t, exec (.egDec rd ra rb rc) s = .next t ∧ FailedWith 0x07#8 s t ∧ NothingWritten s t ∧ Quiet s t)

/-- R485, R486, R606: with a shared secret S = d·C1 that is finite with S.x ≠ 0, EG_DEC completes and writes the plaintext m
below p with m · S.x ≡ C2 (mod p); so every m that EG_ENC masked with the same secret comes back. With S.x = 0, or where an
addition of the scan raises, it raises NO_INVERSE and writes nothing, for d = 0 too, where R485 has DEGENERATE and R461 (a)
O (the model follows R459: entry 14). R486: d·(k·G) = k·(d·G), and the plaintext comes back from EG_KEYGEN through EG_ENC to
EG_DEC: with d and Q as EG_KEYGEN left them and C1 and C2 as an EG_ENC with Q and m left them that completed without error,
EG_DEC completes without error and writes m, whatever the draws and whatever stands between the three commands. -/
def Obligations.EgDecRecoversThePlaintext : Prop :=
  (∀ (rd ra rb rc : Reg) (s : State), curveOk s.cfg.curve → (Instr.egDec rd ra rb rc).wellFormed = true →
    Written [ra, rc] s → PointReady (pairOf rb) s → (s.readPoint (pairOf rb)).inRange s.cfg.curve = true →
    s.reg ra < 2 ^ 256 → s.reg rc < s.cfg.curve.p →
    (∀ sx sy : Nat, scalarMult s.cfg.curve (s.reg ra) (s.readPoint (pairOf rb)) = some (.affine sx sy) →
      sx % s.cfg.curve.p ≠ 0 →
      ∃ t, exec (.egDec rd ra rb rc) s = .next t ∧ t.reg rd < s.cfg.curve.p ∧
        t.reg rd * sx % s.cfg.curve.p = s.reg rc ∧
        (∀ m, m < s.cfg.curve.p → s.reg rc = m * sx % s.cfg.curve.p → t.reg rd = m) ∧
        t.written rd = true ∧ Succeeded s t ∧ OnlyRegisters [rd] [] s t ∧ Quiet s t) ∧
    ((scalarMult s.cfg.curve (s.reg ra) (s.readPoint (pairOf rb)) = none ∨
        ∃ sx sy, scalarMult s.cfg.curve (s.reg ra) (s.readPoint (pairOf rb)) = some (.affine sx sy) ∧
          sx % s.cfg.curve.p = 0) →
      ∃ t, exec (.egDec rd ra rb rc) s = .next t ∧ FailedWith 0x06#8 s t ∧ NothingWritten s t ∧ Quiet s t)) ∧
  (∀ (c : Curve) (d k : Nat) (q c1 : Point), curveOk c → d < 2 ^ 256 → k < 2 ^ 256 →
    scalarMult c d (basePoint c) = some q → scalarMult c k (basePoint c) = some c1 →
    ∃ secret, scalarMult c d c1 = some secret ∧ scalarMult c k q = some secret) ∧
  ∀ (s0 t0 s1 t1 s2 : State) (rd0 rb0 rd1 ra1 rb1 rc1 rd2 ra2 rb2 rc2 : Reg), curveOk s0.cfg.curve →
    s1.cfg.curve = s0.cfg.curve → s2.cfg.curve = s0.cfg.curve →
    (Instr.egKeygen rd0 rb0).wellFormed = true → exec (.egKeygen rd0 rb0) s0 = .next t0 →
    (Instr.egEnc rd1 ra1 rb1 rc1).wellFormed = true → PointReady (pairOf ra1) s1 → Written [rb1] s1 →
    s1.readPoint (pairOf ra1) = t0.readPoint (pairOf rb0) →
    exec (.egEnc rd1 ra1 rb1 rc1) s1 = .next t1 → Succeeded s1 t1 →
    (Instr.egDec rd2 ra2 rb2 rc2).wellFormed = true → Written [ra2, rc2] s2 → PointReady (pairOf rb2) s2 →
    s2.reg ra2 = t0.reg rd0 → s2.readPoint (pairOf rb2) = t1.readPoint (pairOf rd1) → s2.reg rc2 = t1.reg rc1 →
    ∃ t2, exec (.egDec rd2 ra2 rb2 rc2) s2 = .next t2 ∧ t2.reg rd2 = s1.reg rb1 ∧ t2.written rd2 = true ∧
      Succeeded s2 t2 ∧ OnlyRegisters [rd2] [] s2 t2 ∧ Quiet s2 t2

/-! ### RSA -/

/-- R510, R511 (b), R512: for a prime candidate RSA_PRIME_TEST writes 1 for EVERY sequence of draws, making one draw per round
(none for a prime up to 29). -/
def Obligations.PrimeTestAcceptsEveryPrime : Prop :=
  ∀ (rd ra : Reg) (aux : Fin 16) (s : State), Written [ra] s → (s.reg ra).Prime →
    ∃ t, exec (.rsaPrimeTest rd ra aux) s = .next t ∧ t.reg rd = 1 ∧ t.written rd = true ∧
      t.rng.drawn = s.rng.drawn + (if s.reg ra ≤ 29 then 0 else if aux = 0 then 5 else aux.val) ∧
      t.unwrittenRead = s.unwrittenRead ∧ Succeeded s t ∧ OnlyRegisters [rd] [] s t

/-- R510, R511 (a), (c), (d), R512: RSA_PRIME_TEST completes for every candidate, writing 0 or 1. For a candidate below 2, or
one with a small prime factor other than itself, it writes 0 and makes no draw. For a candidate with no small prime factor it
draws k bases from Range(2, c − 2), k being at most the round count: either all rounds are run and every base passes, and it
writes 1; or the last base drawn is the first that does not pass, and it writes 0 with no further draw. -/
def Obligations.PrimeTestRejectsByTrialDivision : Prop :=
  ∀ (rd ra : Reg) (aux : Fin 16) (s : State), Written [ra] s →
    ∃ t, exec (.rsaPrimeTest rd ra aux) s = .next t ∧ (t.reg rd = 0 ∨ t.reg rd = 1) ∧ t.written rd = true ∧
      ((s.reg ra < 2 ∨ ∃ sp ∈ [2, 3, 5, 7, 11, 13, 17, 19, 23, 29], s.reg ra % sp = 0 ∧ s.reg ra ≠ sp) →
        t.reg rd = 0 ∧ t.rng = s.rng) ∧
      (2 ≤ s.reg ra → (∀ sp ∈ [2, 3, 5, 7, 11, 13, 17, 19, 23, 29], s.reg ra % sp ≠ 0) →
        ∃ (k : Nat) (bases : List Nat), k ≤ (if aux = 0 then 5 else aux.val) ∧
          drawsOf 2 (s.reg ra - 2) k s.rng = (bases, t.rng) ∧
          ((k = (if aux = 0 then 5 else aux.val) ∧ (∀ a ∈ bases, PassesRound (s.reg ra) a) ∧ t.reg rd = 1) ∨
            ∃ before witness, bases = before ++ [witness] ∧ (∀ a ∈ before, PassesRound (s.reg ra) a) ∧
              ¬ PassesRound (s.reg ra) witness ∧ t.reg rd = 0)) ∧
      t.unwrittenRead = s.unwrittenRead ∧ Succeeded s t ∧ OnlyRegisters [rd] [] s t

/-- R513 to R515, R511 (b): RSA_GEN_PRIME with 2 ≤ bits ≤ OPW completes with the first candidate, its top bit forced, where
that candidate is prime, whatever the bases drawn after it. -/
def Obligations.GenPrimeTakesAPrimeCandidate : Prop :=
  ∀ (rd ra : Reg) (s : State) (v : Nat) (rest : List Nat), Written [ra] s → 2 ≤ s.reg ra → s.reg ra ≤ s.cfg.opw →
    s.rng.answers = v :: rest → (v % 2 ^ s.reg ra ||| 2 ^ (s.reg ra - 1)).Prime →
    ∃ t, exec (.rsaGenPrime rd ra) s = .next t ∧ t.reg rd = v % 2 ^ s.reg ra ||| 2 ^ (s.reg ra - 1) ∧
      t.written rd = true ∧ t.unwrittenRead = s.unwrittenRead ∧ Succeeded s t ∧ OnlyRegisters [rd] [] s t

/-- R621 (with the premise DRAWS_EVENTUALLY_PRIME), R514 (a): a held RSA_GEN_PRIME whose search ends within finitely many
candidates completes after finitely many steps of the machine, with the candidate found, of exactly `bits` bits and with no
small prime factor but itself; and a held RSA_KEYGEN whose two searches end so completes after finitely many steps, with the
key of R517, or with DEGENERATE or NO_INVERSE. How many candidates one step examines is the model's, and so is the step that
leaves a search pending: a command still BUSY after its step has changed nothing but the model's count of such steps, so no
register, no mark, no tag, no byte, and no draw (entry 9). -/
def Obligations.PrimeSearchThatEndsCompletes : Prop :=
  (∀ (rd ra : Reg) (s : State) (n c : Nat) (g : RandomSource), admitted s.cfg = true → s.status.busy = true →
    s.agenda = [] → decode s.cmd = .ok (.rsaGenPrime rd ra) → Written [ra] s → 2 ≤ s.reg ra → s.reg ra ≤ s.cfg.opw →
    genPrime (s.reg ra) n s.rng = some (c, g) →
    ∃ k t, Sys2Proof.core.run k s = .next t ∧ Succeeded s t ∧ t.reg rd = c ∧ t.written rd = true ∧ t.rng = g ∧
      OnlyRegisters [rd] [] s t ∧ 2 ^ (s.reg ra - 1) ≤ c ∧ c < 2 ^ s.reg ra ∧
      ∀ sp ∈ [2, 3, 5, 7, 11, 13, 17, 19, 23, 29], c % sp = 0 → c = sp) ∧
  (∀ (rd ra rb rc : Reg) (s : State) (n p q : Nat) (g1 g2 : RandomSource), admitted s.cfg = true →
    s.status.busy = true → s.agenda = [] → decode s.cmd = .ok (.rsaKeygen rd ra rb rc) →
    (Instr.rsaKeygen rd ra rb rc).wellFormed = true → Written [ra] s → 4 ≤ s.reg ra → s.reg ra ≤ s.cfg.opw →
    genPrime (s.reg ra / 2) n s.rng = some (p, g1) → genPrime (s.reg ra / 2) n g1 = some (q, g2) →
    ∃ k t, Sys2Proof.core.run k s = .next t ∧ t.rng = g2 ∧
      (p ≠ q → Nat.Coprime 65537 ((p - 1) * (q - 1)) →
        t.reg rd = p * q ∧ t.reg rc = 65537 ∧ 65537 * t.reg rb % ((p - 1) * (q - 1)) = 1 ∧ 0 < t.reg rb ∧
          t.reg rb < (p - 1) * (q - 1) ∧ t.written rd = true ∧ t.written rb = true ∧ t.written rc = true ∧
          Succeeded s t ∧ OnlyRegisters [rd, rb, rc] [] s t) ∧
      ((p = q ∨ ¬ Nat.Coprime 65537 ((p - 1) * (q - 1))) →
        FailedWith (if p = q then 0x07#8 else 0x06#8) s t ∧ NothingWritten s t)) ∧
  (∀ (i : Instr) (s t : State), s.status.busy = true → exec i s = .next t → t.status.busy = true →
    t = { s with attempts := s.attempts + 1 })

/-- R517 to R519, R607, R608, for searches that end within the candidates that the model examines in one step (`searchFuel`,
entry 9; longer searches: PrimeSearchThatEndsCompletes): where they give p ≠ q and 65537 is coprime to φ = (p − 1)(q − 1),
RSA_KEYGEN writes n = p·q, e = 65537 and d with e·d ≡ 1 (mod φ), 0 < d < φ, and n has the stated size; for equal primes it
raises DEGENERATE, which is tested before NO_INVERSE, and where 65537 is not coprime to φ it raises NO_INVERSE; then the
draws are consumed and nothing is written. -/
def Obligations.RsaKeygenWritesAKeyOrRaises : Prop :=
  ∀ (rd ra rb rc : Reg) (s : State) (p q : Nat) (g1 g2 : RandomSource), (Instr.rsaKeygen rd ra rb rc).wellFormed = true →
    Written [ra] s → 4 ≤ s.reg ra → s.reg ra ≤ s.cfg.opw →
    genPrime (s.reg ra / 2) s.searchFuel s.rng = some (p, g1) → genPrime (s.reg ra / 2) s.searchFuel g1 = some (q, g2) →
    (p ≠ q → Nat.Coprime 65537 ((p - 1) * (q - 1)) →
      ∃ t, exec (.rsaKeygen rd ra rb rc) s = .next t ∧ t.reg rd = p * q ∧ t.reg rc = 65537 ∧
        65537 * t.reg rb % ((p - 1) * (q - 1)) = 1 ∧ 0 < t.reg rb ∧ t.reg rb < (p - 1) * (q - 1) ∧
        2 ^ (2 * (s.reg ra / 2) - 2) ≤ t.reg rd ∧ t.reg rd < 2 ^ (2 * (s.reg ra / 2)) ∧ t.rng = g2 ∧
        t.written rd = true ∧ t.written rb = true ∧ t.written rc = true ∧
        t.unwrittenRead = s.unwrittenRead ∧ Succeeded s t ∧ OnlyRegisters [rd, rb, rc] [] s t) ∧
    ((p = q ∨ ¬ Nat.Coprime 65537 ((p - 1) * (q - 1))) →
      ∃ t, exec (.rsaKeygen rd ra rb rc) s = .next t ∧ FailedWith (if p = q then 0x07#8 else 0x06#8) s t ∧
        t.rng = g2 ∧ NothingWritten s t)

/-- R520 to R522, R12: RSA_SIGN stores at ADDR_D the shortest big-endian string of BE(hash)^d mod n and its length in LEN_D;
the rest of its destination region and every other destination stay as they were. -/
def Obligations.RsaSignStoresTheSignature : Prop :=
  ∀ (ra rb : Reg) (s : State) (hash : List Byte), Written [ra, rb] s → s.reg ra ≠ 0 →
    hash.length = s.desc.lenA.toNat → Holds s s.desc.addrA.toNat hash →
    s.desc.addrA.toNat + hash.length ≤ s.cfg.dmemBytes →
    s.desc.addrD.toNat + nbytes (s.reg ra) ≤ s.cfg.dmemBytes →
    ∃ t sig, exec (.rsaSign ra rb) s = .next t ∧ beNat sig = beNat hash ^ s.reg rb % s.reg ra ∧
      sig.head? ≠ some 0#8 ∧ sig.length ≤ nbytes (s.reg ra) ∧ Holds t s.desc.addrD.toNat sig ∧
      t.desc.lenD = BitVec.ofNat 32 sig.length ∧ Succeeded s t ∧ OnlyOutput s.desc.addrD.toNat sig.length s t ∧
      Quiet s t

/-- R523, R525: RSA_VERIFY writes 1 exactly where BE(sig)^e mod n = BE(hash), else 0. -/
def Obligations.RsaVerifyComparesIntegers : Prop :=
  ∀ (rd ra rb : Reg) (s : State) (hash sig : List Byte), Written [ra, rb] s → s.reg ra ≠ 0 →
    hash.length = s.desc.lenA.toNat → Holds s s.desc.addrA.toNat hash →
    sig.length = s.desc.lenB.toNat → Holds s s.desc.addrB.toNat sig →
    s.desc.addrA.toNat + hash.length ≤ s.cfg.dmemBytes → s.desc.addrB.toNat + sig.length ≤ s.cfg.dmemBytes →
    ∃ t, exec (.rsaVerify rd ra rb) s = .next t ∧
      t.reg rd = (if beNat sig ^ s.reg rb % s.reg ra = beNat hash then 1 else 0) ∧ t.written rd = true ∧
      Succeeded s t ∧ OnlyRegisters [rd] [] s t ∧ Quiet s t

/-- R524 (a), for two distinct primes p, q (the rule speaks of key pairs whose p and q only passed IsPrime, which a composite
can: entry 16): with e·d ≡ 1 (mod φ) a signature verifies exactly where BE(hash) < n. -/
def Obligations.SignaturesOfShortHashesVerify : Prop :=
  ∀ (p q e d : Nat) (hash : List Byte), p.Prime → q.Prime → p ≠ q → e * d % ((p - 1) * (q - 1)) = 1 →
    (verify (p * q) e hash (sign (p * q) d hash) = true ↔ beNat hash < p * q)

/-! ### Salsa20 and OFB -/

/-- R551, R553: SALSA_QR stores the quarter-round of four little-endian words, step by step as R551 gives it, and LEN_D = 16;
nothing else changes. -/
def Obligations.SalsaQrStoresTheQuarterRound : Prop :=
  ∀ (s : State) (y0 y1 y2 y3 z0 z1 z2 z3 : Word),
    Holds s s.desc.addrA.toNat (leBytes 4 y0.toNat ++ leBytes 4 y1.toNat ++ leBytes 4 y2.toNat ++ leBytes 4 y3.toNat) →
    s.desc.addrA.toNat + 16 ≤ s.cfg.dmemBytes → s.desc.addrD.toNat + 16 ≤ s.cfg.dmemBytes →
    z1 = y1 ^^^ (y0 + y3).rotateLeft 7 → z2 = y2 ^^^ (z1 + y0).rotateLeft 9 →
    z3 = y3 ^^^ (z2 + z1).rotateLeft 13 → z0 = y0 ^^^ (z3 + z2).rotateLeft 18 →
    ∃ t, exec .salsaQr s = .next t ∧
      Holds t s.desc.addrD.toNat
        (leBytes 4 z0.toNat ++ leBytes 4 z1.toNat ++ leBytes 4 z2.toNat ++ leBytes 4 z3.toNat) ∧
      t.desc.lenD = 16#32 ∧ Succeeded s t ∧ OnlyOutput s.desc.addrD.toNat 16 s t ∧ Quiet s t

/-- R550, R554, R555, R556: SALSA_BLOCK stores Core of 64 bytes, read before any is written, and LEN_D = 64; nothing else
changes. Core is the ten DoubleRounds on the index tuples of R554, with the feed-forward: byte k of word i of its output is
byte k of z[i] ⊞ x[i]. -/
def Obligations.SalsaBlockStoresCore : Prop :=
  ∀ (s : State) (src : List Byte), src.length = 64 → Holds s s.desc.addrA.toNat src →
    s.desc.addrA.toNat + 64 ≤ s.cfg.dmemBytes → s.desc.addrD.toNat + 64 ≤ s.cfg.dmemBytes →
    ∃ t, exec .salsaBlock s = .next t ∧ (core64 src).length = 64 ∧ Holds t s.desc.addrD.toNat (core64 src) ∧
      (∀ i k, i < 16 → k < 4 →
        (core64 src)[4 * i + k]? =
          some ((doubleRoundsAt 10 (wordAt src) i + wordAt src i).extractLsb' (8 * k) 8)) ∧
      t.desc.lenD = 64#32 ∧ Succeeded s t ∧ OnlyOutput s.desc.addrD.toNat 64 s t ∧ Quiet s t

/-- R558, R559, R560: SALSA_KS with a 32-byte key and an 8-byte nonce stores exactly LEN_A keystream bytes and LEN_D = LEN_A;
nothing else changes. Byte j of the keystream is byte j mod 64 of Core of the block input with index j div 64, whose sixteen
words are those of R558. -/
def Obligations.SalsaKsStoresTheKeystream : Prop :=
  ∀ (s : State) (key nonce : List Byte), s.desc.lenK = 32#32 → s.desc.lenN = 8#32 → key.length = 32 →
    nonce.length = 8 → Holds s s.desc.addrK.toNat key → Holds s s.desc.addrN.toNat nonce →
    s.desc.addrK.toNat + 32 ≤ s.cfg.dmemBytes → s.desc.addrN.toNat + 8 ≤ s.cfg.dmemBytes →
    s.desc.addrD.toNat + s.desc.lenA.toNat ≤ s.cfg.dmemBytes →
    ∃ t, exec .salsaKs s = .next t ∧ (keystream key nonce s.desc.lenA.toNat).length = s.desc.lenA.toNat ∧
      Holds t s.desc.addrD.toNat (keystream key nonce s.desc.lenA.toNat) ∧
      (∀ j, j < s.desc.lenA.toNat →
        (keystream key nonce s.desc.lenA.toNat)[j]? = (core64 (blockInput key nonce (j / 64)))[j % 64]?) ∧
      (∀ i, (blockInput key nonce i).length = 64 ∧
        (List.range 16).map (wordAt (blockInput key nonce i)) =
          [0x61707865#32, wordAt key 0, wordAt key 1, wordAt key 2, wordAt key 3,
           0x3320646e#32, wordAt nonce 0, wordAt nonce 1, BitVec.ofNat 32 i, BitVec.ofNat 32 (i / 2 ^ 32),
           0x79622d32#32, wordAt key 4, wordAt key 5, wordAt key 6, wordAt key 7, 0x6b206574#32]) ∧
      t.desc.lenD = s.desc.lenA ∧
      Succeeded s t ∧ OnlyOutput s.desc.addrD.toNat s.desc.lenA.toNat s t ∧ Quiet s t

/-- R559, R561, R562: SALSA_XOR stores the data exclusive-ored byte by byte with the keystream of its key and nonce, byte j of
which is byte j mod 64 of Core of the block input with index j div 64, whatever the overlap of the regions; nothing else
changes. -/
def Obligations.SalsaXorMasksTheData : Prop :=
  ∀ (s : State) (key nonce data : List Byte), s.desc.lenK = 32#32 → s.desc.lenN = 8#32 → key.length = 32 →
    nonce.length = 8 → data.length = s.desc.lenA.toNat → Holds s s.desc.addrK.toNat key →
    Holds s s.desc.addrN.toNat nonce → Holds s s.desc.addrA.toNat data →
    s.desc.addrK.toNat + 32 ≤ s.cfg.dmemBytes → s.desc.addrN.toNat + 8 ≤ s.cfg.dmemBytes →
    s.desc.addrA.toNat + data.length ≤ s.cfg.dmemBytes → s.desc.addrD.toNat + data.length ≤ s.cfg.dmemBytes →
    ∃ (t : State) (out : List Byte), exec .salsaXor s = .next t ∧ out.length = data.length ∧ Holds t s.desc.addrD.toNat out ∧
      (∀ (j : Nat) (b k : Byte), data[j]? = some b → (keystream key nonce data.length)[j]? = some k →
        out[j]? = some (b ^^^ k)) ∧
      (∀ (j : Nat) (b k : Byte), data[j]? = some b → (core64 (blockInput key nonce (j / 64)))[j % 64]? = some k →
        out[j]? = some (b ^^^ k)) ∧
      t.desc.lenD = s.desc.lenA ∧ Succeeded s t ∧ OnlyOutput s.desc.addrD.toNat data.length s t ∧ Quiet s t

/-- R590, R591, R592 (b), R593: OFB_ENC and OFB_DEC both store Ofb(key, iv, data), of the data's length, whatever the overlap
of the regions; nothing else changes. Block b is masked with Core of the block input with index 0 under the chaining value
cv_b, where cv_0 is iv and cv_(b+1) the first 8 bytes of that keystream. -/
def Obligations.OfbCommandsStoreOfb : Prop :=
  ∀ (i : Instr) (s : State) (key iv data : List Byte), (i = .ofbEnc ∨ i = .ofbDec) → s.desc.lenK = 32#32 →
    s.desc.lenN = 8#32 → key.length = 32 → iv.length = 8 → data.length = s.desc.lenA.toNat →
    Holds s s.desc.addrK.toNat key → Holds s s.desc.addrN.toNat iv → Holds s s.desc.addrA.toNat data →
    s.desc.addrK.toNat + 32 ≤ s.cfg.dmemBytes → s.desc.addrN.toNat + 8 ≤ s.cfg.dmemBytes →
    s.desc.addrA.toNat + data.length ≤ s.cfg.dmemBytes → s.desc.addrD.toNat + data.length ≤ s.cfg.dmemBytes →
    ∃ (t : State) (cv : Nat → List Byte), exec i s = .next t ∧ (ofb key iv data).length = data.length ∧
      Holds t s.desc.addrD.toNat (ofb key iv data) ∧
      cv 0 = iv ∧ (∀ b, cv (b + 1) = (core64 (blockInput key (cv b) 0)).take 8) ∧
      (∀ (j : Nat) (d k : Byte), data[j]? = some d → (core64 (blockInput key (cv (j / 64)) 0))[j % 64]? = some k →
        (ofb key iv data)[j]? = some (d ^^^ k)) ∧
      t.desc.lenD = s.desc.lenA ∧ Succeeded s t ∧ OnlyOutput s.desc.addrD.toNat data.length s t ∧ Quiet s t

/-- R559, R563 (a), R592 (a), (c): a shorter keystream is a prefix of a longer one; the stream and the OFB mode are
self-inverse for every key, nonce and data, and agree on data of at most one block. -/
def Obligations.StreamAndOfbAreSelfInverse : Prop :=
  ∀ (key iv data : List Byte) (m n : Nat), key.length = 32 → iv.length = 8 → m ≤ n →
    keystream key iv m = (keystream key iv n).take m ∧
      streamXor key iv (streamXor key iv data) = data ∧ ofb key iv (ofb key iv data) = data ∧
      (data.length ≤ 64 → ofb key iv data = streamXor key iv data)

/-- R557 (b): the ten DoubleRounds are a bijection of the 16-word state. -/
def Obligations.TheRoundsAreABijection : Prop := Function.Bijective (doubleRounds 10)

/-! ### Errors of operand values, lengths and regions -/

/-- R605: the OPERAND_RANGE table, row by row, for commands whose earlier checks pass; nothing is written or drawn. -/
def Obligations.OperandRangeTable : Prop :=
  ∀ s : State,
    (∀ rd ra rb rc, Written [ra, rb, rc] s →
      (s.reg rc % 2 = 0 ∨ s.reg rc ≤ s.reg ra ∨ s.reg rc ≤ s.reg rb) →
      ∃ t, exec (.montMul rd ra rb rc) s = .next t ∧ FailedWith 0x05#8 s t ∧ NothingWritten s t ∧ Quiet s t) ∧
    (∀ i rd ra rb rc, Written [ra, rb, rc] s → s.reg rc = 0 →
      (i = .modMul rd ra rb rc ∨ i = .modExp rd ra rb rc ∨ i = .modInv rd ra rc) →
      ∃ t, exec i s = .next t ∧ FailedWith 0x05#8 s t ∧ NothingWritten s t ∧ Quiet s t) ∧
    (∀ i rd ra rb, i.wellFormed = true →
      ((i = .ecAdd rd ra rb ∧ PointReady (pairOf ra) s ∧ PointReady (pairOf rb) s ∧
          ((s.readPoint (pairOf ra)).inRange s.cfg.curve = false ∨
            (s.readPoint (pairOf rb)).inRange s.cfg.curve = false)) ∨
        ((i = .ecDbl rd ra ∨ i = .ecOnCurve rd ra) ∧ PointReady (pairOf ra) s ∧
          (s.readPoint (pairOf ra)).inRange s.cfg.curve = false) ∨
        (i = .ecSmul rd ra rb ∧ Written [ra] s ∧ PointReady (pairOf rb) s ∧
          ((s.readPoint (pairOf rb)).inRange s.cfg.curve = false ∨ 2 ^ 256 ≤ s.reg ra))) →
      ∃ t, exec i s = .next t ∧ FailedWith 0x05#8 s t ∧ NothingWritten s t ∧ Quiet s t) ∧
    (∀ rd ra rb rc, (Instr.egEnc rd ra rb rc).wellFormed = true → PointReady (pairOf ra) s → Written [rb] s →
      ((s.readPoint (pairOf ra)).inRange s.cfg.curve = false ∨ s.cfg.curve.p ≤ s.reg rb) →
      ∃ t, exec (.egEnc rd ra rb rc) s = .next t ∧ FailedWith 0x05#8 s t ∧ NothingWritten s t ∧ Quiet s t) ∧
    (∀ rd ra rb rc, (Instr.egDec rd ra rb rc).wellFormed = true → PointReady (pairOf rb) s → Written [ra, rc] s →
      ((s.readPoint (pairOf rb)).inRange s.cfg.curve = false ∨ 2 ^ 256 ≤ s.reg ra ∨ s.cfg.curve.p ≤ s.reg rc) →
      ∃ t, exec (.egDec rd ra rb rc) s = .next t ∧ FailedWith 0x05#8 s t ∧ NothingWritten s t ∧ Quiet s t) ∧
    (∀ i rd ra rb rc, i.wellFormed = true → Written [ra] s →
      ((i = .rsaGenPrime rd ra ∧ (s.reg ra < 2 ∨ s.cfg.opw < s.reg ra)) ∨
        (i = .rsaKeygen rd ra rb rc ∧ (s.reg ra < 4 ∨ s.cfg.opw < s.reg ra))) →
      ∃ t, exec i s = .next t ∧ FailedWith 0x05#8 s t ∧ NothingWritten s t ∧ Quiet s t) ∧
    (∀ i rd ra rb hash sig, Written [ra, rb] s → s.reg ra = 0 →
      hash.length = s.desc.lenA.toNat → Holds s s.desc.addrA.toNat hash →
      s.desc.addrA.toNat + hash.length ≤ s.cfg.dmemBytes →
      ((i = .rsaSign ra rb ∧ s.desc.addrD.toNat ≤ s.cfg.dmemBytes) ∨
        (i = .rsaVerify rd ra rb ∧ sig.length = s.desc.lenB.toNat ∧ Holds s s.desc.addrB.toNat sig ∧
          s.desc.addrB.toNat + sig.length ≤ s.cfg.dmemBytes)) →
      ∃ t, exec i s = .next t ∧ FailedWith 0x05#8 s t ∧ NothingWritten s t ∧ Quiet s t)

/-- R603, R608: LEN_K ≠ 32 or LEN_N ≠ 8 raises BAD_LENGTH in the four stream commands, before any region is checked or byte
read; with the right lengths, and in every other command, no BAD_LENGTH is raised. -/
def Obligations.WrongKeyOrNonceLengthRaisesBadLength : Prop :=
  ∀ (i : Instr) (s : State),
    ((i = .salsaKs ∨ i = .salsaXor ∨ i = .ofbEnc ∨ i = .ofbDec) → (s.desc.lenK ≠ 32#32 ∨ s.desc.lenN ≠ 8#32) →
      ∃ t, exec i s = .next t ∧ FailedWith 0x03#8 s t ∧ NothingWritten s t ∧ Quiet s t) ∧
    (s.errcode = 0#8 →
      ((i ≠ .salsaKs ∧ i ≠ .salsaXor ∧ i ≠ .ofbEnc ∧ i ≠ .ofbDec) ∨ (s.desc.lenK = 32#32 ∧ s.desc.lenN = 8#32)) →
      ∀ t, exec i s = .next t → t.errcode ≠ 0x03#8)

/-- R206, R604: a region that ends beyond DMEM_BYTES, as an unbounded sum, raises MEM_RANGE, command by command of the table,
before any byte is read; a command of no row of the table never raises it. -/
def Obligations.RegionOutsideDmemRaisesMemRange : Prop :=
  ∀ (i : Instr) (s : State) (rd ra rb : Reg),
    (((i = .rsaSign ra rb ∧ Written [ra, rb] s ∧
        (s.cfg.dmemBytes < s.desc.addrA.toNat + s.desc.lenA.toNat ∨
          s.cfg.dmemBytes < s.desc.addrD.toNat + nbytes (s.reg ra))) ∨
      (i = .rsaVerify rd ra rb ∧ Written [ra, rb] s ∧
        (s.cfg.dmemBytes < s.desc.addrA.toNat + s.desc.lenA.toNat ∨
          s.cfg.dmemBytes < s.desc.addrB.toNat + s.desc.lenB.toNat)) ∨
      (i = .salsaQr ∧
        (s.cfg.dmemBytes < s.desc.addrA.toNat + 16 ∨ s.cfg.dmemBytes < s.desc.addrD.toNat + 16)) ∨
      (i = .salsaBlock ∧
        (s.cfg.dmemBytes < s.desc.addrA.toNat + 64 ∨ s.cfg.dmemBytes < s.desc.addrD.toNat + 64)) ∨
      (s.desc.lenK = 32#32 ∧ s.desc.lenN = 8#32 ∧ (i = .salsaKs ∨ i = .salsaXor ∨ i = .ofbEnc ∨ i = .ofbDec) ∧
        (s.cfg.dmemBytes < s.desc.addrK.toNat + 32 ∨ s.cfg.dmemBytes < s.desc.addrN.toNat + 8 ∨
          s.cfg.dmemBytes < s.desc.addrD.toNat + s.desc.lenA.toNat ∨
          (i ≠ .salsaKs ∧ s.cfg.dmemBytes < s.desc.addrA.toNat + s.desc.lenA.toNat)))) →
      ∃ t, exec i s = .next t ∧ FailedWith 0x04#8 s t ∧ NothingWritten s t ∧ Quiet s t) ∧
    (s.errcode = 0#8 → (∀ ra rb, i ≠ .rsaSign ra rb) → (∀ rd ra rb, i ≠ .rsaVerify rd ra rb) → i ≠ .salsaQr →
      i ≠ .salsaBlock → i ≠ .salsaKs → i ≠ .salsaXor → i ≠ .ofbEnc → i ≠ .ofbDec →
      ∀ t, exec i s = .next t → t.errcode ≠ 0x04#8)
end

