-- ==== Sys2Proof/Laws/Arithmetic.lean ====
section
/-! SUPPORT. What the modular inverse (42_modular_inverse.md R430) and modular exponentiation (41_montgomery_mult.md R415)
compute. -/

namespace Sys2Proof.Machine

open Sys2Proof

/-! ### The modular inverse -/

/-- The loop of R430 from any state of the form r = a·t + m·k answers the gcd with its Bézout coefficient. -/
theorem euclid_spec (a m : Int) : ∀ (fuel r0 r1 : Nat) (t0 t1 : Int), r1 ≤ fuel →
    (∃ k, (r0 : Int) = a * t0 + m * k) → (∃ k, (r1 : Int) = a * t1 + m * k) →
    (euclid fuel r0 r1 t0 t1).1 = Nat.gcd r0 r1 ∧
      ∃ k, ((euclid fuel r0 r1 t0 t1).1 : Int) = a * (euclid fuel r0 r1 t0 t1).2 + m * k := by
  intro fuel
  induction fuel with
  | zero =>
    intro r0 r1 t0 t1 h h0 h1
    obtain rfl : r1 = 0 := by omega
    simp [euclid, h0]
  | succ n ih =>
    intro r0 r1 t0 t1 h h0 h1
    unfold euclid
    split
    · next hz => subst hz; simp [h0]
    · next hz =>
      have e : r0 - r0 / r1 * r1 = r0 % r1 := by rw [Nat.mod_eq_sub_div_mul]
      have hlt := Nat.mod_lt r0 (Nat.pos_of_ne_zero hz)
      rw [e]
      have := ih r1 (r0 % r1) t1 (t0 - (r0 / r1 : Nat) * t1) (by omega) h1 (by
        obtain ⟨k0, h0⟩ := h0
        obtain ⟨k1, h1⟩ := h1
        refine ⟨k0 - (r0 / r1 : Nat) * k1, ?_⟩
        have h2 : ((r0 % r1 : Nat) : Int) = r0 - (r0 / r1 : Nat) * r1 := by
          rw [Int.natCast_mod, Int.emod_def, Int.natCast_div]; ring
        rw [h2, h0, h1]; ring)
      refine ⟨?_, this.2⟩
      rw [this.1, Nat.gcd_comm r1, ← Nat.gcd_rec, Nat.gcd_comm]

/-- ModInv(a, m) for m ≥ 1: the inverse below m where gcd(a, m) = 1, else NO_INVERSE (R430). -/
theorem modInv_spec (a : Int) (m : Nat) (hm : m ≠ 0) :
    (Int.gcd a m = 1 → ∃ r : Nat, modInv a m = some r ∧ r < m ∧ (a * r) % m = 1 % m) ∧
      (Int.gcd a m ≠ 1 → modInv a m = none) := by
  unfold modInv
  by_cases h1 : m = 1
  · subst h1; rw [if_pos rfl]
    constructor
    · intro _; exact ⟨0, rfl, by omega, by simp⟩
    · intro h; simp at h
  · rw [if_neg h1]
    have hpos : (0 : Int) < m := by omega
    have e0 : ((a % m).toNat : Int) = a % m := Int.toNat_of_nonneg (Int.emod_nonneg _ (by omega))
    have hlt : (a % m).toNat < m := by have := Int.emod_lt_of_pos a hpos; omega
    have sp := euclid_spec a m m m (a % m).toNat 0 1 (by omega) ⟨1, by ring⟩
      ⟨-(a / m), by rw [e0, Int.emod_def]; ring⟩
    obtain ⟨hg, k, hk⟩ := sp
    have hgcd : Nat.gcd m (a % m).toNat = Int.gcd a m := by
      have : Int.gcd a m = Int.gcd m (a % m) := by rw [← Int.gcd_emod, Int.gcd_comm]
      rw [this, ← e0]; rfl
    rw [hgcd] at hg
    generalize euclid m m (a % m).toNat 0 1 = q at *
    obtain ⟨g, t⟩ := q
    simp only at hg hk ⊢
    subst hg
    constructor
    · intro hc
      rw [hc] at hk
      rw [if_pos hc]
      have hn : 0 ≤ t % m := Int.emod_nonneg _ (by omega)
      refine ⟨_, rfl, ?_, ?_⟩
      · have := Int.emod_lt_of_pos t hpos; omega
      · rw [Int.toNat_of_nonneg hn, Int.mul_emod, Int.emod_emod, ← Int.mul_emod]
        have : a * t = 1 + m * (-k) := by push_cast at hk; linarith
        rw [this, Int.add_mul_emod_self_left]
    · intro hc; rw [if_neg hc]

/-- The same for a natural number a, the operand of MOD_INV (R431). -/
theorem modInv_nat (a m : Nat) (hm : m ≠ 0) :
    (Nat.gcd a m = 1 → ∃ r : Nat, modInv a m = some r ∧ r < m ∧ (a * r) % m = 1 % m) ∧
      (Nat.gcd a m ≠ 1 → modInv a m = none) := by
  have := modInv_spec a m hm
  rw [show Int.gcd (a : Int) (m : Int) = Nat.gcd a m from rfl] at this
  refine ⟨fun h => ?_, this.2⟩
  obtain ⟨r, h1, h2, h3⟩ := this.1 h
  exact ⟨r, h1, h2, by exact_mod_cast h3⟩

/-! ### Modular exponentiation -/

theorem powLoop_spec (m : Nat) :
    ∀ fuel e b acc : Nat, e < 2 ^ fuel → Nat.ModEq m (powLoop m fuel e b acc) (acc * b ^ e) := by
  intro fuel
  induction fuel with
  | zero =>
    intro e b acc h
    obtain rfl : e = 0 := by simpa using h
    simp [powLoop]
    rfl
  | succ n ih =>
    intro e b acc h
    unfold powLoop
    refine (ih _ _ _ (by rw [pow_succ] at h; omega)).trans ?_
    have h2 : Nat.ModEq m ((b * b % m) ^ (e / 2)) ((b * b) ^ (e / 2)) := (Nat.mod_modEq _ _).pow _
    split
    · next ho =>
      have he : b ^ e = b * (b * b) ^ (e / 2) := by
        conv_lhs => rw [← Nat.div_add_mod e 2, ho]
        rw [pow_add, pow_mul]; ring
      rw [he, ← mul_assoc]
      exact (Nat.mod_modEq _ _).mul h2
    · next ho =>
      have he : b ^ e = (b * b) ^ (e / 2) := by
        conv_lhs => rw [← Nat.div_add_mod e 2, show e % 2 = 0 by omega]
        rw [pow_add, pow_mul]; ring
      rw [he]
      exact h2.mul_left _

theorem powLoop_lt (m : Nat) (hm : 0 < m) : ∀ fuel e b acc : Nat, acc < m → powLoop m fuel e b acc < m := by
  intro fuel
  induction fuel with
  | zero => intro e b acc h; exact h
  | succ n ih =>
    intro e b acc h
    unfold powLoop
    apply ih
    split
    · exact Nat.mod_lt _ hm
    · exact h

/-- v < 2^bitlen(v) (R11). -/
theorem lt_two_pow_bitlen (v : Nat) : v < 2 ^ bitlen v := by
  unfold bitlen
  split
  · omega
  · exact Nat.lt_log2_self

/-- ModExp(g, e, m) is the exact power reduced mod m (R415). -/
theorem modExp_eq (g e m : Nat) (hm : m ≠ 0) : modExp g e m = g ^ e % m := by
  have h := powLoop_spec m (bitlen e) e (g % m) (1 % m) (lt_two_pow_bitlen e)
  have hl := powLoop_lt m (by omega) (bitlen e) e (g % m) (1 % m) (Nat.mod_lt _ (by omega))
  unfold modExp
  rw [← Nat.mod_eq_of_lt hl]
  refine Nat.ModEq.trans h ?_
  have h2 : Nat.ModEq m (1 % m * (g % m) ^ e) (1 * g ^ e) := (Nat.mod_modEq _ _).mul ((Nat.mod_modEq _ _).pow _)
  rwa [one_mul] at h2

end Sys2Proof.Machine
end

