-- ==== Sys2Proof/Laws/Bytes.lean ====
section
/-! SUPPORT. Byte strings (00_scope.md R11, R12): what the little- and big-endian strings of an integer are, and how long
every string is that a command stores. -/

namespace Sys2Proof.Machine

open Sys2Proof

/-! ### Strings of integers -/

@[simp] theorem leBytes_length (n v : Nat) : (leBytes n v).length = n := by
  induction n generalizing v with
  | zero => rfl
  | succ n ih => simp [leBytes, ih]

/-- LE(le_bytes_N(v)) = v for v < 256^N (R12). -/
theorem leNat_leBytes (n : Nat) : ∀ v, v < 256 ^ n → leNat (leBytes n v) = v := by
  induction n with
  | zero => intro v h; simp at h; subst h; rfl
  | succ n ih =>
    intro v h
    rw [leBytes, leNat, ih (v / 256) (by rw [pow_succ] at h; omega)]
    simp only [BitVec.toNat_ofNat]; omega

/-- BE of a string is LE of its reverse (R12). -/
theorem beNat_reverse (l : List Byte) : beNat l.reverse = leNat l := by
  unfold beNat
  rw [List.foldl_reverse]
  induction l with
  | nil => rfl
  | cons b l ih => simp only [List.foldr, leNat]; rw [ih]; ring

/-- v < 256^nbytes(v) (R11). -/
theorem lt_pow_nbytes (v : Nat) : v < 256 ^ nbytes v := by
  have h := lt_two_pow_bitlen v
  rw [show (256 : Nat) = 2 ^ 8 from rfl, ← pow_mul]
  exact Nat.lt_of_lt_of_le h (Nat.pow_le_pow_right (by omega) (by unfold nbytes; omega))

/-- BE(minBE(v)) = v (R12). -/
theorem beNat_minBE (v : Nat) : beNat (minBE v) = v := by
  rw [minBE, beNat_reverse, leNat_leBytes _ _ (lt_pow_nbytes v)]

@[simp] theorem minBE_length (v : Nat) : (minBE v).length = nbytes v := by simp [minBE]

theorem nbytes_mono {a b : Nat} (h : a ≤ b) : nbytes a ≤ nbytes b := by
  have : bitlen a ≤ bitlen b := by
    unfold bitlen
    split
    · omega
    · rw [if_neg (by omega)]
      simp only [Nat.log2_eq_log_two]
      exact Nat.succ_le_succ (Nat.log_mono_right h)
  unfold nbytes; omega

/-! ### Lengths of the strings that commands store -/

@[simp] theorem bytesOf_length (ws : List Word) : (bytesOf ws).length = 4 * ws.length := by
  induction ws with
  | nil => rfl
  | cons w ws ih => simp only [bytesOf, List.length_append, leBytes_length, ih, List.length_cons]; omega

/-- Core gives 64 bytes (R555). -/
@[simp] theorem core64_length (s : List Byte) : (core64 s).length = 64 := by simp [core64, Block.words]

@[simp] theorem keystreamBlocks_length (key nonce : List Byte) (n i : Nat) :
    (keystreamBlocks key nonce n i).length = 64 * n := by
  induction n generalizing i with
  | zero => rfl
  | succ n ih => simp [keystreamBlocks, ih]; omega

/-- Keystream(key, nonce, L) has L bytes (R559). -/
@[simp] theorem keystream_length (key nonce : List Byte) (len : Nat) : (keystream key nonce len).length = len := by
  rw [keystream, List.length_take, keystreamBlocks_length, Config.blockBytes]; omega

@[simp] theorem xorBytes_length (a b : List Byte) : (xorBytes a b).length = min a.length b.length := by simp [xorBytes]

/-- StreamXor keeps the length of its data (R561). -/
@[simp] theorem streamXor_length (key nonce data : List Byte) : (streamXor key nonce data).length = data.length := by
  simp [streamXor]

theorem ofbBlocks_length (key : List Byte) (fuel : Nat) (iv data : List Byte) (h : data.length ≤ 64 * fuel) :
    (ofbBlocks key fuel iv data).length = data.length := by
  induction fuel generalizing iv data with
  | zero => simp [ofbBlocks]; omega
  | succ n ih =>
    simp only [ofbBlocks, List.length_append, xorBytes_length, streamXor_length, List.length_replicate,
      List.length_take]
    rw [ih _ _ (by simp; omega)]
    simp; omega

/-- Ofb keeps the length of its data (R590). -/
@[simp] theorem ofb_length (key iv data : List Byte) : (ofb key iv data).length = data.length :=
  ofbBlocks_length _ _ _ _ (by omega)

/-- A signature is no longer than nbytes(n) (R521). -/
theorem sign_length_le {n : Nat} (hn : n ≠ 0) (d : Nat) (hb : List Byte) : (sign n d hb).length ≤ nbytes n := by
  rw [sign, minBE_length, modExp_eq _ _ _ hn]
  exact nbytes_mono (Nat.mod_lt _ (by omega)).le

end Sys2Proof.Machine
end

