-- ==== Sys2Proof/Laws/Memory.lean ====
section
/-! SUPPORT. DMEM: a read after a write, the bytes of a stored string, and every operation keeps the canonical form. -/

namespace Sys2Proof.Machine

open Sys2Proof

@[simp] theorem Memory.read_nil (a : Nat) : Memory.read [] a = none := rfl

theorem Memory.read_cons (k : Nat) (v : Byte) (m : Memory) (a : Nat) :
    Memory.read ((k, v) :: m) a = if k = a then some v else Memory.read m a := rfl

/-- A list with rising addresses holds nothing at or below an address that lies under all of them. -/
theorem Memory.read_of_lt_head {m : Memory} {k : Nat} {v : Byte} (h : Memory.wf ((k, v) :: m) = true) {a : Nat}
    (ha : a < k) : Memory.read ((k, v) :: m) a = none := by
  induction m generalizing k v with
  | nil => simp [Memory.read_cons, Nat.ne_of_gt ha]
  | cons c m ih =>
    obtain ⟨k', v'⟩ := c
    simp only [Memory.wf, Bool.and_eq_true, decide_eq_true_eq] at h
    rw [Memory.read_cons, if_neg (Nat.ne_of_gt ha)]
    exact ih h.2 (Nat.lt_trans ha h.1)

/-- A read after a write of one byte. -/
theorem Memory.read_write (m : Memory) (a b : Nat) (v : Byte) :
    Memory.read (Memory.write m a v) b = if b = a then some v else Memory.read m b := by
  induction m with
  | nil => simp [Memory.write, Memory.read_cons, eq_comm]
  | cons c m ih =>
    obtain ⟨k, w⟩ := c
    rw [Memory.write]
    split
    · simp [Memory.read_cons, eq_comm]
    · split
      · next h => subst h; simp only [Memory.read_cons, eq_comm]; split <;> rfl
      · next h1 h2 =>
        rw [Memory.read_cons, Memory.read_cons, ih]
        by_cases hk : k = b
        · subst hk; simp [Ne.symm h2]
        · simp [hk]

@[simp] theorem Memory.read_write_self (m : Memory) (a : Nat) (v : Byte) :
    Memory.read (Memory.write m a v) a = some v := by simp [Memory.read_write]

theorem Memory.read_write_of_ne (m : Memory) {a b : Nat} (v : Byte) (h : b ≠ a) :
    Memory.read (Memory.write m a v) b = Memory.read m b := by simp [Memory.read_write, h]

/-- What MemWrite(a, n, s) does (R205): byte i of the string stands at a + i, every other byte is as it was. -/
theorem Memory.read_writeBytes (m : Memory) (a : Nat) (s : List Byte) (b : Nat) :
    Memory.read (Memory.writeBytes m a s) b =
      if a ≤ b ∧ b < a + s.length then s[b - a]? else Memory.read m b := by
  induction s generalizing m a with
  | nil => rw [if_neg (by simp)]; rfl
  | cons c s ih =>
    rw [Memory.writeBytes, ih, Memory.read_write]
    simp only [List.length_cons]
    by_cases h : b = a
    · subst h; simp
    · by_cases h2 : a + 1 ≤ b ∧ b < a + 1 + s.length
      · rw [if_pos h2, if_pos (by omega), show b - a = (b - (a + 1)) + 1 by omega]; rfl
      · rw [if_neg h2, if_neg h, if_neg (by omega)]

/-- Outside the stored bytes nothing changes (R205). -/
theorem Memory.read_writeBytes_of_outside (m : Memory) (a : Nat) (s : List Byte) {b : Nat}
    (h : ¬ (a ≤ b ∧ b < a + s.length)) : Memory.read (Memory.writeBytes m a s) b = Memory.read m b := by
  rw [Memory.read_writeBytes, if_neg h]

/-- The stored bytes read back (R205). -/
theorem Memory.read_writeBytes_inside (m : Memory) (a : Nat) (s : List Byte) {i : Nat} (h : i < s.length) :
    Memory.read (Memory.writeBytes m a s) (a + i) = some s[i] := by
  rw [Memory.read_writeBytes, if_pos (by omega)]
  simp [h]

theorem Memory.wf_cons {k : Nat} {v : Byte} {m : Memory} :
    Memory.wf ((k, v) :: m) = true ↔ (∀ c ∈ m, k < c.1) ∧ Memory.wf m = true := by
  induction m generalizing k v with
  | nil => simp [Memory.wf]
  | cons c m ih =>
    obtain ⟨k', v'⟩ := c
    simp only [Memory.wf, Bool.and_eq_true, decide_eq_true_eq, List.mem_cons, forall_eq_or_imp]
    constructor
    · rintro ⟨h, hw⟩
      exact ⟨⟨h, fun c hc => Nat.lt_trans h ((ih.1 hw).1 c hc)⟩, hw⟩
    · rintro ⟨⟨h, -⟩, hw⟩
      exact ⟨h, hw⟩

theorem Memory.mem_write {m : Memory} {a : Nat} {v : Byte} {c : Host.Cell} (h : c ∈ Memory.write m a v) :
    c = (a, v) ∨ c ∈ m := by
  induction m with
  | nil => simpa [Memory.write] using h
  | cons d m ih =>
    obtain ⟨k, w⟩ := d
    rw [Memory.write] at h
    split at h
    · simpa using h
    · split at h
      · rcases List.mem_cons.1 h with h | h
        · exact .inl h
        · exact .inr (List.mem_cons_of_mem _ h)
      · rcases List.mem_cons.1 h with h | h
        · exact .inr (h ▸ List.mem_cons_self)
        · exact (ih h).imp_right (List.mem_cons_of_mem _)

/-- Storing a byte keeps the canonical form. -/
theorem Memory.wf_write {m : Memory} (h : Memory.wf m = true) (a : Nat) (v : Byte) :
    Memory.wf (Memory.write m a v) = true := by
  induction m with
  | nil => rfl
  | cons c m ih =>
    obtain ⟨k, w⟩ := c
    have hc := Memory.wf_cons.1 h
    rw [Memory.write]
    split
    · next hlt =>
      refine Memory.wf_cons.2 ⟨fun c hm => ?_, h⟩
      rcases List.mem_cons.1 hm with rfl | hm
      · exact hlt
      · exact Nat.lt_trans hlt (hc.1 c hm)
    · split
      · next heq => subst heq; exact Memory.wf_cons.2 hc
      · next h1 h2 =>
        refine Memory.wf_cons.2 ⟨fun c hm => ?_, ih hc.2⟩
        rcases Memory.mem_write hm with rfl | hm
        · exact lt_of_le_of_ne (Nat.not_lt.1 h1) (Ne.symm h2)
        · exact hc.1 c hm

/-- Storing a string keeps the canonical form. -/
theorem Memory.wf_writeBytes {m : Memory} (h : Memory.wf m = true) (a : Nat) (s : List Byte) :
    Memory.wf (Memory.writeBytes m a s) = true := by
  induction s generalizing m a with
  | nil => exact h
  | cons c s ih => exact ih (Memory.wf_write h a c) (a + 1)

/-- The memory after reset is in canonical form. -/
theorem Memory.wf_reset : Memory.wf State.reset.dmem = true := rfl

theorem Memory.mem_writeBytes {m : Memory} {a : Nat} {s : List Byte} {c : Host.Cell}
    (h : c ∈ Memory.writeBytes m a s) : (a ≤ c.1 ∧ c.1 < a + s.length) ∨ c ∈ m := by
  induction s generalizing m a with
  | nil => exact .inr h
  | cons b s ih =>
    rcases ih h with h | h
    · exact .inl (by simp only [List.length_cons]; omega)
    · rcases Memory.mem_write h with rfl | h
      · exact .inl (by simp)
      · exact .inr h

/-- Two memories in canonical form that read alike are the same list. -/
theorem Memory.ext_of_wf {m n : Memory} (hm : Memory.wf m = true) (hn : Memory.wf n = true)
    (h : ∀ a, Memory.read m a = Memory.read n a) : m = n := by
  induction m generalizing n with
  | nil =>
    cases n with
    | nil => rfl
    | cons d n => obtain ⟨k, w⟩ := d; simpa [Memory.read_cons] using h k
  | cons c m ih =>
    obtain ⟨k, v⟩ := c
    cases n with
    | nil => simpa [Memory.read_cons] using h k
    | cons d n =>
      obtain ⟨k', v'⟩ := d
      have hk : k = k' := by
        rcases Nat.lt_trichotomy k k' with hlt | rfl | hlt
        · have := h k; rw [Memory.read_of_lt_head hn hlt] at this; simp [Memory.read_cons] at this
        · rfl
        · have := h k'; rw [Memory.read_of_lt_head hm hlt] at this; simp [Memory.read_cons] at this
      subst hk
      have hv : v = v' := by simpa [Memory.read_cons] using h k
      subst hv
      refine congrArg _ (ih (Memory.wf_cons.1 hm).2 (Memory.wf_cons.1 hn).2 fun a => ?_)
      by_cases ha : k = a
      · subst ha
        have low : ∀ q : Memory, (∀ c ∈ q, k < c.1) → Memory.read q k = none := by
          intro q hq
          induction q with
          | nil => rfl
          | cons e q ihq =>
            obtain ⟨j, u⟩ := e
            have hj := hq (j, u) List.mem_cons_self
            rw [Memory.read_cons, if_neg (Nat.ne_of_gt hj)]
            exact ihq fun c hc => hq c (List.mem_cons_of_mem _ hc)
        rw [low m (Memory.wf_cons.1 hm).1, low n (Memory.wf_cons.1 hn).1]
      · simpa [Memory.read_cons, ha] using h a

end Sys2Proof.Machine
end

