-- ==== Sys2Proof/Laws/State.lean ====
section
/-! SUPPORT. One lemma per field per update of the state, so that no later proof unfolds a record update. -/

namespace Sys2Proof.Machine

open Sys2Proof


/-! `setReg` -/

@[simp] theorem State.setReg_cfg (s : State) (r : Reg) (v : Nat) : (s.setReg r v).cfg = s.cfg := rfl
@[simp] theorem State.setReg_x (s : State) (r : Reg) (v : Nat) : (s.setReg r v).x = s.x.set r.val ⟨v, true⟩ := rfl
@[simp] theorem State.setReg_dmem (s : State) (r : Reg) (v : Nat) : (s.setReg r v).dmem = s.dmem := rfl
@[simp] theorem State.setReg_cmd (s : State) (r : Reg) (v : Nat) : (s.setReg r v).cmd = s.cmd := rfl
@[simp] theorem State.setReg_status (s : State) (r : Reg) (v : Nat) : (s.setReg r v).status = s.status := rfl
@[simp] theorem State.setReg_errcode (s : State) (r : Reg) (v : Nat) : (s.setReg r v).errcode = s.errcode := rfl
@[simp] theorem State.setReg_ie (s : State) (r : Reg) (v : Nat) : (s.setReg r v).ie = s.ie := rfl
@[simp] theorem State.setReg_tag (s : State) (r : Reg) (v : Nat) : (s.setReg r v).tag = s.tag := rfl
@[simp] theorem State.setReg_osel (s : State) (r : Reg) (v : Nat) : (s.setReg r v).osel = s.osel := rfl
@[simp] theorem State.setReg_desc (s : State) (r : Reg) (v : Nat) : (s.setReg r v).desc = s.desc := rfl
@[simp] theorem State.setReg_unwrittenRead (s : State) (r : Reg) (v : Nat) :
    (s.setReg r v).unwrittenRead = s.unwrittenRead := rfl
@[simp] theorem State.setReg_readData (s : State) (r : Reg) (v : Nat) : (s.setReg r v).readData = s.readData := rfl
@[simp] theorem State.setReg_rng (s : State) (r : Reg) (v : Nat) : (s.setReg r v).rng = s.rng := rfl
@[simp] theorem State.setReg_stamp (s : State) (r : Reg) (v : Nat) : (s.setReg r v).stamp = s.stamp := rfl
@[simp] theorem State.setReg_attempts (s : State) (r : Reg) (v : Nat) : (s.setReg r v).attempts = s.attempts := rfl
@[simp] theorem State.setReg_agenda (s : State) (r : Reg) (v : Nat) : (s.setReg r v).agenda = s.agenda := rfl

/-! `noteRegs` -/

@[simp] theorem State.noteRegs_cfg (s : State) (rs : List Reg) : (s.noteRegs rs).cfg = s.cfg := rfl
@[simp] theorem State.noteRegs_x (s : State) (rs : List Reg) : (s.noteRegs rs).x = s.x := rfl
@[simp] theorem State.noteRegs_dmem (s : State) (rs : List Reg) : (s.noteRegs rs).dmem = s.dmem := rfl
@[simp] theorem State.noteRegs_cmd (s : State) (rs : List Reg) : (s.noteRegs rs).cmd = s.cmd := rfl
@[simp] theorem State.noteRegs_status (s : State) (rs : List Reg) : (s.noteRegs rs).status = s.status := rfl
@[simp] theorem State.noteRegs_errcode (s : State) (rs : List Reg) : (s.noteRegs rs).errcode = s.errcode := rfl
@[simp] theorem State.noteRegs_ie (s : State) (rs : List Reg) : (s.noteRegs rs).ie = s.ie := rfl
@[simp] theorem State.noteRegs_tag (s : State) (rs : List Reg) : (s.noteRegs rs).tag = s.tag := rfl
@[simp] theorem State.noteRegs_osel (s : State) (rs : List Reg) : (s.noteRegs rs).osel = s.osel := rfl
@[simp] theorem State.noteRegs_desc (s : State) (rs : List Reg) : (s.noteRegs rs).desc = s.desc := rfl
@[simp] theorem State.noteRegs_unwrittenRead (s : State) (rs : List Reg) :
    (s.noteRegs rs).unwrittenRead = (s.unwrittenRead || rs.any fun r => !s.written r) := rfl
@[simp] theorem State.noteRegs_readData (s : State) (rs : List Reg) : (s.noteRegs rs).readData = s.readData := rfl
@[simp] theorem State.noteRegs_rng (s : State) (rs : List Reg) : (s.noteRegs rs).rng = s.rng := rfl
@[simp] theorem State.noteRegs_stamp (s : State) (rs : List Reg) : (s.noteRegs rs).stamp = s.stamp := rfl
@[simp] theorem State.noteRegs_attempts (s : State) (rs : List Reg) : (s.noteRegs rs).attempts = s.attempts := rfl
@[simp] theorem State.noteRegs_agenda (s : State) (rs : List Reg) : (s.noteRegs rs).agenda = s.agenda := rfl

/-! `notePoint` -/

@[simp] theorem State.notePoint_cfg (s : State) (j : Pair) : (s.notePoint j).cfg = s.cfg := by
  unfold State.notePoint; split <;> rfl
@[simp] theorem State.notePoint_x (s : State) (j : Pair) : (s.notePoint j).x = s.x := by
  unfold State.notePoint; split <;> rfl
@[simp] theorem State.notePoint_dmem (s : State) (j : Pair) : (s.notePoint j).dmem = s.dmem := by
  unfold State.notePoint; split <;> rfl
@[simp] theorem State.notePoint_cmd (s : State) (j : Pair) : (s.notePoint j).cmd = s.cmd := by
  unfold State.notePoint; split <;> rfl
@[simp] theorem State.notePoint_status (s : State) (j : Pair) : (s.notePoint j).status = s.status := by
  unfold State.notePoint; split <;> rfl
@[simp] theorem State.notePoint_errcode (s : State) (j : Pair) : (s.notePoint j).errcode = s.errcode := by
  unfold State.notePoint; split <;> rfl
@[simp] theorem State.notePoint_ie (s : State) (j : Pair) : (s.notePoint j).ie = s.ie := by
  unfold State.notePoint; split <;> rfl
@[simp] theorem State.notePoint_tag (s : State) (j : Pair) : (s.notePoint j).tag = s.tag := by
  unfold State.notePoint; split <;> rfl
@[simp] theorem State.notePoint_osel (s : State) (j : Pair) : (s.notePoint j).osel = s.osel := by
  unfold State.notePoint; split <;> rfl
@[simp] theorem State.notePoint_desc (s : State) (j : Pair) : (s.notePoint j).desc = s.desc := by
  unfold State.notePoint; split <;> rfl
@[simp] theorem State.notePoint_readData (s : State) (j : Pair) : (s.notePoint j).readData = s.readData := by
  unfold State.notePoint; split <;> rfl
@[simp] theorem State.notePoint_rng (s : State) (j : Pair) : (s.notePoint j).rng = s.rng := by
  unfold State.notePoint; split <;> rfl
@[simp] theorem State.notePoint_stamp (s : State) (j : Pair) : (s.notePoint j).stamp = s.stamp := by
  unfold State.notePoint; split <;> rfl
@[simp] theorem State.notePoint_attempts (s : State) (j : Pair) : (s.notePoint j).attempts = s.attempts := by
  unfold State.notePoint; split <;> rfl
@[simp] theorem State.notePoint_agenda (s : State) (j : Pair) : (s.notePoint j).agenda = s.agenda := by
  unfold State.notePoint; split <;> rfl

/-! `writePoint` -/

@[simp] theorem State.writePoint_cfg (s : State) (j : Pair) (p : Point) : (s.writePoint j p).cfg = s.cfg := by
  cases p <;> rfl
@[simp] theorem State.writePoint_dmem (s : State) (j : Pair) (p : Point) : (s.writePoint j p).dmem = s.dmem := by
  cases p <;> rfl
@[simp] theorem State.writePoint_cmd (s : State) (j : Pair) (p : Point) : (s.writePoint j p).cmd = s.cmd := by
  cases p <;> rfl
@[simp] theorem State.writePoint_status (s : State) (j : Pair) (p : Point) : (s.writePoint j p).status = s.status := by
  cases p <;> rfl
@[simp] theorem State.writePoint_errcode (s : State) (j : Pair) (p : Point) : (s.writePoint j p).errcode = s.errcode := by
  cases p <;> rfl
@[simp] theorem State.writePoint_ie (s : State) (j : Pair) (p : Point) : (s.writePoint j p).ie = s.ie := by
  cases p <;> rfl
@[simp] theorem State.writePoint_osel (s : State) (j : Pair) (p : Point) : (s.writePoint j p).osel = s.osel := by
  cases p <;> rfl
@[simp] theorem State.writePoint_desc (s : State) (j : Pair) (p : Point) : (s.writePoint j p).desc = s.desc := by
  cases p <;> rfl
@[simp] theorem State.writePoint_unwrittenRead (s : State) (j : Pair) (p : Point) : (s.writePoint j p).unwrittenRead = s.unwrittenRead := by
  cases p <;> rfl
@[simp] theorem State.writePoint_readData (s : State) (j : Pair) (p : Point) : (s.writePoint j p).readData = s.readData := by
  cases p <;> rfl
@[simp] theorem State.writePoint_rng (s : State) (j : Pair) (p : Point) : (s.writePoint j p).rng = s.rng := by
  cases p <;> rfl
@[simp] theorem State.writePoint_stamp (s : State) (j : Pair) (p : Point) : (s.writePoint j p).stamp = s.stamp := by
  cases p <;> rfl
@[simp] theorem State.writePoint_attempts (s : State) (j : Pair) (p : Point) : (s.writePoint j p).attempts = s.attempts := by
  cases p <;> rfl
@[simp] theorem State.writePoint_agenda (s : State) (j : Pair) (p : Point) : (s.writePoint j p).agenda = s.agenda := by
  cases p <;> rfl

/-! `noteMem` -/

@[simp] theorem State.noteMem_cfg (s : State) (rs : List Region) : (s.noteMem rs).cfg = s.cfg := by
  unfold State.noteMem; split <;> rfl
@[simp] theorem State.noteMem_x (s : State) (rs : List Region) : (s.noteMem rs).x = s.x := by
  unfold State.noteMem; split <;> rfl
@[simp] theorem State.noteMem_dmem (s : State) (rs : List Region) : (s.noteMem rs).dmem = s.dmem := by
  unfold State.noteMem; split <;> rfl
@[simp] theorem State.noteMem_cmd (s : State) (rs : List Region) : (s.noteMem rs).cmd = s.cmd := by
  unfold State.noteMem; split <;> rfl
@[simp] theorem State.noteMem_status (s : State) (rs : List Region) : (s.noteMem rs).status = s.status := by
  unfold State.noteMem; split <;> rfl
@[simp] theorem State.noteMem_errcode (s : State) (rs : List Region) : (s.noteMem rs).errcode = s.errcode := by
  unfold State.noteMem; split <;> rfl
@[simp] theorem State.noteMem_ie (s : State) (rs : List Region) : (s.noteMem rs).ie = s.ie := by
  unfold State.noteMem; split <;> rfl
@[simp] theorem State.noteMem_tag (s : State) (rs : List Region) : (s.noteMem rs).tag = s.tag := by
  unfold State.noteMem; split <;> rfl
@[simp] theorem State.noteMem_osel (s : State) (rs : List Region) : (s.noteMem rs).osel = s.osel := by
  unfold State.noteMem; split <;> rfl
@[simp] theorem State.noteMem_desc (s : State) (rs : List Region) : (s.noteMem rs).desc = s.desc := by
  unfold State.noteMem; split <;> rfl
@[simp] theorem State.noteMem_readData (s : State) (rs : List Region) : (s.noteMem rs).readData = s.readData := by
  unfold State.noteMem; split <;> rfl
@[simp] theorem State.noteMem_rng (s : State) (rs : List Region) : (s.noteMem rs).rng = s.rng := by
  unfold State.noteMem; split <;> rfl
@[simp] theorem State.noteMem_attempts (s : State) (rs : List Region) : (s.noteMem rs).attempts = s.attempts := by
  unfold State.noteMem; split <;> rfl
@[simp] theorem State.noteMem_agenda (s : State) (rs : List Region) : (s.noteMem rs).agenda = s.agenda := by
  unfold State.noteMem; split <;> rfl

/-! `storeOutput` -/

@[simp] theorem State.storeOutput_cfg (s : State) (out : List Byte) : (s.storeOutput out).cfg = s.cfg := rfl
@[simp] theorem State.storeOutput_x (s : State) (out : List Byte) : (s.storeOutput out).x = s.x := rfl
@[simp] theorem State.storeOutput_dmem (s : State) (out : List Byte) :
    (s.storeOutput out).dmem = s.dmem.writeBytes s.desc.addrD.toNat out := rfl
@[simp] theorem State.storeOutput_cmd (s : State) (out : List Byte) : (s.storeOutput out).cmd = s.cmd := rfl
@[simp] theorem State.storeOutput_status (s : State) (out : List Byte) : (s.storeOutput out).status = s.status := rfl
@[simp] theorem State.storeOutput_errcode (s : State) (out : List Byte) :
    (s.storeOutput out).errcode = s.errcode := rfl
@[simp] theorem State.storeOutput_ie (s : State) (out : List Byte) : (s.storeOutput out).ie = s.ie := rfl
@[simp] theorem State.storeOutput_tag (s : State) (out : List Byte) : (s.storeOutput out).tag = s.tag := rfl
@[simp] theorem State.storeOutput_osel (s : State) (out : List Byte) : (s.storeOutput out).osel = s.osel := rfl
@[simp] theorem State.storeOutput_desc (s : State) (out : List Byte) :
    (s.storeOutput out).desc = { s.desc with lenD := BitVec.ofNat 32 out.length } := rfl
@[simp] theorem State.storeOutput_unwrittenRead (s : State) (out : List Byte) :
    (s.storeOutput out).unwrittenRead = s.unwrittenRead := rfl
@[simp] theorem State.storeOutput_readData (s : State) (out : List Byte) :
    (s.storeOutput out).readData = s.readData := rfl
@[simp] theorem State.storeOutput_rng (s : State) (out : List Byte) : (s.storeOutput out).rng = s.rng := rfl
@[simp] theorem State.storeOutput_stamp (s : State) (out : List Byte) : (s.storeOutput out).stamp = s.stamp := rfl
@[simp] theorem State.storeOutput_attempts (s : State) (out : List Byte) :
    (s.storeOutput out).attempts = s.attempts := rfl
@[simp] theorem State.storeOutput_agenda (s : State) (out : List Byte) : (s.storeOutput out).agenda = s.agenda := rfl

/-! `accept` -/

@[simp] theorem State.accept_cfg (s : State) (w : Word) : (s.accept w).cfg = s.cfg := rfl
@[simp] theorem State.accept_x (s : State) (w : Word) : (s.accept w).x = s.x := rfl
@[simp] theorem State.accept_dmem (s : State) (w : Word) : (s.accept w).dmem = s.dmem := rfl
@[simp] theorem State.accept_cmd (s : State) (w : Word) : (s.accept w).cmd = w := rfl
@[simp] theorem State.accept_status (s : State) (w : Word) : (s.accept w).status = s.status.accept := rfl
@[simp] theorem State.accept_errcode (s : State) (w : Word) : (s.accept w).errcode = 0#8 := rfl
@[simp] theorem State.accept_ie (s : State) (w : Word) : (s.accept w).ie = s.ie := rfl
@[simp] theorem State.accept_tag (s : State) (w : Word) : (s.accept w).tag = s.tag := rfl
@[simp] theorem State.accept_osel (s : State) (w : Word) : (s.accept w).osel = s.osel := rfl
@[simp] theorem State.accept_desc (s : State) (w : Word) : (s.accept w).desc = s.desc := rfl
@[simp] theorem State.accept_unwrittenRead (s : State) (w : Word) :
    (s.accept w).unwrittenRead = s.unwrittenRead := rfl
@[simp] theorem State.accept_readData (s : State) (w : Word) : (s.accept w).readData = s.readData := rfl
@[simp] theorem State.accept_rng (s : State) (w : Word) : (s.accept w).rng = s.rng := rfl
@[simp] theorem State.accept_stamp (s : State) (w : Word) : (s.accept w).stamp = s.stamp := rfl
@[simp] theorem State.accept_attempts (s : State) (w : Word) : (s.accept w).attempts = 0 := rfl
@[simp] theorem State.accept_agenda (s : State) (w : Word) : (s.accept w).agenda = s.agenda := rfl

/-! `hardwareReset` -/

@[simp] theorem State.hardwareReset_cfg (s : State) : (s.hardwareReset).cfg = s.cfg := rfl
@[simp] theorem State.hardwareReset_x (s : State) : (s.hardwareReset).x = Vector.replicate 32 Operand.reset := rfl
@[simp] theorem State.hardwareReset_dmem (s : State) : (s.hardwareReset).dmem = [] := rfl
@[simp] theorem State.hardwareReset_cmd (s : State) : (s.hardwareReset).cmd = 0#32 := rfl
@[simp] theorem State.hardwareReset_status (s : State) : (s.hardwareReset).status = Status.reset := rfl
@[simp] theorem State.hardwareReset_errcode (s : State) : (s.hardwareReset).errcode = 0#8 := rfl
@[simp] theorem State.hardwareReset_ie (s : State) : (s.hardwareReset).ie = false := rfl
@[simp] theorem State.hardwareReset_tag (s : State) : (s.hardwareReset).tag = 0#16 := rfl
@[simp] theorem State.hardwareReset_osel (s : State) : (s.hardwareReset).osel = 0 := rfl
@[simp] theorem State.hardwareReset_desc (s : State) : (s.hardwareReset).desc = Descriptors.reset := rfl
@[simp] theorem State.hardwareReset_unwrittenRead (s : State) :
    (s.hardwareReset).unwrittenRead = s.unwrittenRead := rfl
@[simp] theorem State.hardwareReset_readData (s : State) : (s.hardwareReset).readData = s.readData := rfl
@[simp] theorem State.hardwareReset_rng (s : State) : (s.hardwareReset).rng = s.rng := rfl
@[simp] theorem State.hardwareReset_stamp (s : State) : (s.hardwareReset).stamp = s.stamp := rfl
@[simp] theorem State.hardwareReset_attempts (s : State) : (s.hardwareReset).attempts = 0 := rfl
@[simp] theorem State.hardwareReset_agenda (s : State) : (s.hardwareReset).agenda = s.agenda := rfl

/-! `busError` -/

@[simp] theorem State.busError_cfg (s : State) : (s.busError).cfg = s.cfg := rfl
@[simp] theorem State.busError_x (s : State) : (s.busError).x = s.x := rfl
@[simp] theorem State.busError_dmem (s : State) : (s.busError).dmem = s.dmem := rfl
@[simp] theorem State.busError_cmd (s : State) : (s.busError).cmd = s.cmd := rfl
@[simp] theorem State.busError_status (s : State) : (s.busError).status = { s.status with buserr := true } := rfl
@[simp] theorem State.busError_errcode (s : State) : (s.busError).errcode = s.errcode := rfl
@[simp] theorem State.busError_ie (s : State) : (s.busError).ie = s.ie := rfl
@[simp] theorem State.busError_tag (s : State) : (s.busError).tag = s.tag := rfl
@[simp] theorem State.busError_osel (s : State) : (s.busError).osel = s.osel := rfl
@[simp] theorem State.busError_desc (s : State) : (s.busError).desc = s.desc := rfl
@[simp] theorem State.busError_unwrittenRead (s : State) : (s.busError).unwrittenRead = s.unwrittenRead := rfl
@[simp] theorem State.busError_readData (s : State) : (s.busError).readData = s.readData := rfl
@[simp] theorem State.busError_rng (s : State) : (s.busError).rng = s.rng := rfl
@[simp] theorem State.busError_stamp (s : State) : (s.busError).stamp = s.stamp := rfl
@[simp] theorem State.busError_attempts (s : State) : (s.busError).attempts = s.attempts := rfl
@[simp] theorem State.busError_agenda (s : State) : (s.busError).agenda = s.agenda := rfl

/-! `dropped` -/

@[simp] theorem State.dropped_cfg (s : State) : (s.dropped).cfg = s.cfg := rfl
@[simp] theorem State.dropped_x (s : State) : (s.dropped).x = s.x := rfl
@[simp] theorem State.dropped_dmem (s : State) : (s.dropped).dmem = s.dmem := rfl
@[simp] theorem State.dropped_cmd (s : State) : (s.dropped).cmd = s.cmd := rfl
@[simp] theorem State.dropped_status (s : State) : (s.dropped).status = { s.status with haz := true } := rfl
@[simp] theorem State.dropped_errcode (s : State) : (s.dropped).errcode = s.errcode := rfl
@[simp] theorem State.dropped_ie (s : State) : (s.dropped).ie = s.ie := rfl
@[simp] theorem State.dropped_tag (s : State) : (s.dropped).tag = s.tag := rfl
@[simp] theorem State.dropped_osel (s : State) : (s.dropped).osel = s.osel := rfl
@[simp] theorem State.dropped_desc (s : State) : (s.dropped).desc = s.desc := rfl
@[simp] theorem State.dropped_unwrittenRead (s : State) : (s.dropped).unwrittenRead = s.unwrittenRead := rfl
@[simp] theorem State.dropped_readData (s : State) : (s.dropped).readData = s.readData := rfl
@[simp] theorem State.dropped_rng (s : State) : (s.dropped).rng = s.rng := rfl
@[simp] theorem State.dropped_stamp (s : State) : (s.dropped).stamp = s.stamp := rfl
@[simp] theorem State.dropped_attempts (s : State) : (s.dropped).attempts = s.attempts := rfl
@[simp] theorem State.dropped_agenda (s : State) : (s.dropped).agenda = s.agenda := rfl

/-! `returns` -/

@[simp] theorem State.returns_cfg (s : State) (w : Word) : (s.returns w).cfg = s.cfg := rfl
@[simp] theorem State.returns_x (s : State) (w : Word) : (s.returns w).x = s.x := rfl
@[simp] theorem State.returns_dmem (s : State) (w : Word) : (s.returns w).dmem = s.dmem := rfl
@[simp] theorem State.returns_cmd (s : State) (w : Word) : (s.returns w).cmd = s.cmd := rfl
@[simp] theorem State.returns_status (s : State) (w : Word) : (s.returns w).status = s.status := rfl
@[simp] theorem State.returns_errcode (s : State) (w : Word) : (s.returns w).errcode = s.errcode := rfl
@[simp] theorem State.returns_ie (s : State) (w : Word) : (s.returns w).ie = s.ie := rfl
@[simp] theorem State.returns_tag (s : State) (w : Word) : (s.returns w).tag = s.tag := rfl
@[simp] theorem State.returns_osel (s : State) (w : Word) : (s.returns w).osel = s.osel := rfl
@[simp] theorem State.returns_desc (s : State) (w : Word) : (s.returns w).desc = s.desc := rfl
@[simp] theorem State.returns_unwrittenRead (s : State) (w : Word) :
    (s.returns w).unwrittenRead = s.unwrittenRead := rfl
@[simp] theorem State.returns_readData (s : State) (w : Word) : (s.returns w).readData = some w := rfl
@[simp] theorem State.returns_rng (s : State) (w : Word) : (s.returns w).rng = s.rng := rfl
@[simp] theorem State.returns_stamp (s : State) (w : Word) : (s.returns w).stamp = s.stamp := rfl
@[simp] theorem State.returns_attempts (s : State) (w : Word) : (s.returns w).attempts = s.attempts := rfl
@[simp] theorem State.returns_agenda (s : State) (w : Word) : (s.returns w).agenda = s.agenda := rfl

/-! `returnsFree` -/

@[simp] theorem State.returnsFree_cfg (s : State) : (s.returnsFree).cfg = s.cfg := rfl
@[simp] theorem State.returnsFree_x (s : State) : (s.returnsFree).x = s.x := rfl
@[simp] theorem State.returnsFree_dmem (s : State) : (s.returnsFree).dmem = s.dmem := rfl
@[simp] theorem State.returnsFree_cmd (s : State) : (s.returnsFree).cmd = s.cmd := rfl
@[simp] theorem State.returnsFree_status (s : State) : (s.returnsFree).status = s.status := rfl
@[simp] theorem State.returnsFree_errcode (s : State) : (s.returnsFree).errcode = s.errcode := rfl
@[simp] theorem State.returnsFree_ie (s : State) : (s.returnsFree).ie = s.ie := rfl
@[simp] theorem State.returnsFree_tag (s : State) : (s.returnsFree).tag = s.tag := rfl
@[simp] theorem State.returnsFree_osel (s : State) : (s.returnsFree).osel = s.osel := rfl
@[simp] theorem State.returnsFree_desc (s : State) : (s.returnsFree).desc = s.desc := rfl
@[simp] theorem State.returnsFree_unwrittenRead (s : State) : (s.returnsFree).unwrittenRead = s.unwrittenRead := rfl
@[simp] theorem State.returnsFree_readData (s : State) :
    (s.returnsFree).readData = some (Config.busyWord s.stamp) := rfl
@[simp] theorem State.returnsFree_rng (s : State) : (s.returnsFree).rng = s.rng := rfl
@[simp] theorem State.returnsFree_stamp (s : State) : (s.returnsFree).stamp = s.stamp + 1 := rfl
@[simp] theorem State.returnsFree_attempts (s : State) : (s.returnsFree).attempts = s.attempts := rfl
@[simp] theorem State.returnsFree_agenda (s : State) : (s.returnsFree).agenda = s.agenda := rfl

/-! `returnsNothing` -/

@[simp] theorem State.returnsNothing_cfg (s : State) : (s.returnsNothing).cfg = s.cfg := rfl
@[simp] theorem State.returnsNothing_x (s : State) : (s.returnsNothing).x = s.x := rfl
@[simp] theorem State.returnsNothing_dmem (s : State) : (s.returnsNothing).dmem = s.dmem := rfl
@[simp] theorem State.returnsNothing_cmd (s : State) : (s.returnsNothing).cmd = s.cmd := rfl
@[simp] theorem State.returnsNothing_status (s : State) : (s.returnsNothing).status = s.status := rfl
@[simp] theorem State.returnsNothing_errcode (s : State) : (s.returnsNothing).errcode = s.errcode := rfl
@[simp] theorem State.returnsNothing_ie (s : State) : (s.returnsNothing).ie = s.ie := rfl
@[simp] theorem State.returnsNothing_tag (s : State) : (s.returnsNothing).tag = s.tag := rfl
@[simp] theorem State.returnsNothing_osel (s : State) : (s.returnsNothing).osel = s.osel := rfl
@[simp] theorem State.returnsNothing_desc (s : State) : (s.returnsNothing).desc = s.desc := rfl
@[simp] theorem State.returnsNothing_unwrittenRead (s : State) : (s.returnsNothing).unwrittenRead = true := rfl
@[simp] theorem State.returnsNothing_readData (s : State) : (s.returnsNothing).readData = none := rfl
@[simp] theorem State.returnsNothing_rng (s : State) : (s.returnsNothing).rng = s.rng := rfl
@[simp] theorem State.returnsNothing_stamp (s : State) : (s.returnsNothing).stamp = s.stamp := rfl
@[simp] theorem State.returnsNothing_attempts (s : State) : (s.returnsNothing).attempts = s.attempts := rfl
@[simp] theorem State.returnsNothing_agenda (s : State) : (s.returnsNothing).agenda = s.agenda := rfl

/-! `setRng` -/

@[simp] theorem State.setRng_cfg (s : State) (g : RandomSource) : (s.setRng g).cfg = s.cfg := rfl
@[simp] theorem State.setRng_x (s : State) (g : RandomSource) : (s.setRng g).x = s.x := rfl
@[simp] theorem State.setRng_dmem (s : State) (g : RandomSource) : (s.setRng g).dmem = s.dmem := rfl
@[simp] theorem State.setRng_cmd (s : State) (g : RandomSource) : (s.setRng g).cmd = s.cmd := rfl
@[simp] theorem State.setRng_status (s : State) (g : RandomSource) : (s.setRng g).status = s.status := rfl
@[simp] theorem State.setRng_errcode (s : State) (g : RandomSource) : (s.setRng g).errcode = s.errcode := rfl
@[simp] theorem State.setRng_ie (s : State) (g : RandomSource) : (s.setRng g).ie = s.ie := rfl
@[simp] theorem State.setRng_tag (s : State) (g : RandomSource) : (s.setRng g).tag = s.tag := rfl
@[simp] theorem State.setRng_osel (s : State) (g : RandomSource) : (s.setRng g).osel = s.osel := rfl
@[simp] theorem State.setRng_desc (s : State) (g : RandomSource) : (s.setRng g).desc = s.desc := rfl
@[simp] theorem State.setRng_unwrittenRead (s : State) (g : RandomSource) :
    (s.setRng g).unwrittenRead = s.unwrittenRead := rfl
@[simp] theorem State.setRng_readData (s : State) (g : RandomSource) : (s.setRng g).readData = s.readData := rfl
@[simp] theorem State.setRng_rng (s : State) (g : RandomSource) : (s.setRng g).rng = g := rfl
@[simp] theorem State.setRng_stamp (s : State) (g : RandomSource) : (s.setRng g).stamp = s.stamp := rfl
@[simp] theorem State.setRng_attempts (s : State) (g : RandomSource) : (s.setRng g).attempts = s.attempts := rfl
@[simp] theorem State.setRng_agenda (s : State) (g : RandomSource) : (s.setRng g).agenda = s.agenda := rfl

/-! `finish` -/

@[simp] theorem State.finish_cfg (t : State) (b : Bool) (c : BitVec 8) : (t.finish b c).cfg = t.cfg := rfl
@[simp] theorem State.finish_x (t : State) (b : Bool) (c : BitVec 8) : (t.finish b c).x = t.x := rfl
@[simp] theorem State.finish_dmem (t : State) (b : Bool) (c : BitVec 8) : (t.finish b c).dmem = t.dmem := rfl
@[simp] theorem State.finish_cmd (t : State) (b : Bool) (c : BitVec 8) : (t.finish b c).cmd = t.cmd := rfl
@[simp] theorem State.finish_status (t : State) (b : Bool) (c : BitVec 8) :
    (t.finish b c).status = t.status.complete b := rfl
@[simp] theorem State.finish_errcode (t : State) (b : Bool) (c : BitVec 8) : (t.finish b c).errcode = c := rfl
@[simp] theorem State.finish_ie (t : State) (b : Bool) (c : BitVec 8) : (t.finish b c).ie = t.ie := rfl
@[simp] theorem State.finish_tag (t : State) (b : Bool) (c : BitVec 8) : (t.finish b c).tag = t.tag := rfl
@[simp] theorem State.finish_osel (t : State) (b : Bool) (c : BitVec 8) : (t.finish b c).osel = t.osel := rfl
@[simp] theorem State.finish_desc (t : State) (b : Bool) (c : BitVec 8) : (t.finish b c).desc = t.desc := rfl
@[simp] theorem State.finish_unwrittenRead (t : State) (b : Bool) (c : BitVec 8) :
    (t.finish b c).unwrittenRead = t.unwrittenRead := rfl
@[simp] theorem State.finish_readData (t : State) (b : Bool) (c : BitVec 8) :
    (t.finish b c).readData = t.readData := rfl
@[simp] theorem State.finish_rng (t : State) (b : Bool) (c : BitVec 8) : (t.finish b c).rng = t.rng := rfl
@[simp] theorem State.finish_stamp (t : State) (b : Bool) (c : BitVec 8) : (t.finish b c).stamp = t.stamp := rfl
@[simp] theorem State.finish_attempts (t : State) (b : Bool) (c : BitVec 8) : (t.finish b c).attempts = 0 := rfl
@[simp] theorem State.finish_agenda (t : State) (b : Bool) (c : BitVec 8) : (t.finish b c).agenda = t.agenda := rfl

/-! `settle` -/

@[simp] theorem State.settle_commit (s t : State) : s.settle (.commit t) = t.finish false 0#8 := rfl
@[simp] theorem State.settle_raise (s t : State) (e : ErrCode) : s.settle (.raise e t) = t.finish true e.code := rfl

/-! `settle` of `searching` -/

@[simp] theorem State.settle_searching_cfg (s : State) : (s.settle .searching).cfg = s.cfg := rfl
@[simp] theorem State.settle_searching_x (s : State) : (s.settle .searching).x = s.x := rfl
@[simp] theorem State.settle_searching_dmem (s : State) : (s.settle .searching).dmem = s.dmem := rfl
@[simp] theorem State.settle_searching_cmd (s : State) : (s.settle .searching).cmd = s.cmd := rfl
@[simp] theorem State.settle_searching_status (s : State) : (s.settle .searching).status = s.status := rfl
@[simp] theorem State.settle_searching_errcode (s : State) : (s.settle .searching).errcode = s.errcode := rfl
@[simp] theorem State.settle_searching_ie (s : State) : (s.settle .searching).ie = s.ie := rfl
@[simp] theorem State.settle_searching_tag (s : State) : (s.settle .searching).tag = s.tag := rfl
@[simp] theorem State.settle_searching_osel (s : State) : (s.settle .searching).osel = s.osel := rfl
@[simp] theorem State.settle_searching_desc (s : State) : (s.settle .searching).desc = s.desc := rfl
@[simp] theorem State.settle_searching_unwrittenRead (s : State) :
    (s.settle .searching).unwrittenRead = s.unwrittenRead := rfl
@[simp] theorem State.settle_searching_readData (s : State) : (s.settle .searching).readData = s.readData := rfl
@[simp] theorem State.settle_searching_rng (s : State) : (s.settle .searching).rng = s.rng := rfl
@[simp] theorem State.settle_searching_stamp (s : State) : (s.settle .searching).stamp = s.stamp := rfl
@[simp] theorem State.settle_searching_attempts (s : State) : (s.settle .searching).attempts = s.attempts + 1 := rfl
@[simp] theorem State.settle_searching_agenda (s : State) : (s.settle .searching).agenda = s.agenda := rfl

/-! STATUS -/

@[simp] theorem Status.complete_busy (t : Status) (b : Bool) : (t.complete b).busy = false := rfl
@[simp] theorem Status.complete_done (t : Status) (b : Bool) : (t.complete b).done = true := rfl
@[simp] theorem Status.complete_err (t : Status) (b : Bool) : (t.complete b).err = b := rfl
@[simp] theorem Status.complete_ovr (t : Status) (b : Bool) : (t.complete b).ovr = t.ovr := rfl
@[simp] theorem Status.complete_haz (t : Status) (b : Bool) : (t.complete b).haz = t.haz := rfl
@[simp] theorem Status.complete_buserr (t : Status) (b : Bool) : (t.complete b).buserr = t.buserr := rfl
@[simp] theorem Status.accept_busy (t : Status) : t.accept.busy = true := rfl
@[simp] theorem Status.accept_done (t : Status) : t.accept.done = false := rfl
@[simp] theorem Status.accept_err (t : Status) : t.accept.err = false := rfl
@[simp] theorem Status.accept_ovr (t : Status) : t.accept.ovr = t.ovr := rfl
@[simp] theorem Status.accept_haz (t : Status) : t.accept.haz = t.haz := rfl
@[simp] theorem Status.accept_buserr (t : Status) : t.accept.buserr = t.buserr := rfl

end Sys2Proof.Machine
end

