-- ==== Sys2Proof/Laws/Ops.lean ====
section
/-! SUPPORT. For each shared operation, once, everything it can do: registers, points, DMEM regions, draws, completion, and the
host's window words. -/

namespace Sys2Proof.Machine

open Sys2Proof

/-! ### Operand registers -/

/-- x[i] <- v changes register i alone (R100). -/
theorem State.setReg_getElem (s : State) (r : Reg) (v : Nat) (q : Reg) :
    (s.setReg r v).x[q.val] = if q = r then ⟨v, true⟩ else s.x[q.val] := by
  simp only [State.setReg_x, Vector.getElem_set]
  by_cases h : q = r
  · simp [h]
  · rw [if_neg h, if_neg (fun h' => h (Fin.ext h'.symm))]

theorem State.setReg_getElem_of_ne (s : State) {r q : Reg} (v : Nat) (h : q ≠ r) :
    (s.setReg r v).x[q.val] = s.x[q.val] := by rw [State.setReg_getElem, if_neg h]

theorem State.reg_setReg (s : State) (r : Reg) (v : Nat) (q : Reg) :
    (s.setReg r v).reg q = if q = r then v else s.reg q := by
  unfold State.reg; rw [State.setReg_getElem]; split <;> rfl

theorem State.written_setReg (s : State) (r : Reg) (v : Nat) (q : Reg) :
    (s.setReg r v).written q = (decide (q = r) || s.written q) := by
  unfold State.written; rw [State.setReg_getElem]; split <;> simp [*]

@[simp] theorem State.reg_setReg_self (s : State) (r : Reg) (v : Nat) : (s.setReg r v).reg r = v := by
  simp [State.reg_setReg]

@[simp] theorem State.written_setReg_self (s : State) (r : Reg) (v : Nat) : (s.setReg r v).written r = true := by
  simp [State.written_setReg]

/-- Registers that have all been written leave no record when read (R609). -/
theorem State.noteRegs_of_written (s : State) {rs : List Reg} (h : ∀ r ∈ rs, s.written r = true) :
    s.noteRegs rs = s := by
  have : (rs.any fun r => !s.written r) = false := by simpa using h
  simp [State.noteRegs, this]

/-- An unwritten register leaves UNWRITTEN_READ recorded when read (R101, R609). -/
theorem State.noteRegs_of_unwritten (s : State) {rs : List Reg} {r : Reg} (hr : r ∈ rs) (h : s.written r = false) :
    (s.noteRegs rs).unwrittenRead = true := by
  simp only [State.noteRegs_unwrittenRead, Bool.or_eq_true, List.any_eq_true]
  exact .inr ⟨r, hr, by simp [h]⟩

@[simp] theorem State.reg_noteRegs (s : State) (rs : List Reg) (r : Reg) : (s.noteRegs rs).reg r = s.reg r := rfl
@[simp] theorem State.written_noteRegs (s : State) (rs : List Reg) (r : Reg) :
    (s.noteRegs rs).written r = s.written r := rfl
@[simp] theorem State.reg_notePoint (s : State) (j : Pair) (r : Reg) : (s.notePoint j).reg r = s.reg r := by
  simp [State.reg]
@[simp] theorem State.written_notePoint (s : State) (j : Pair) (r : Reg) :
    (s.notePoint j).written r = s.written r := by simp [State.written]
@[simp] theorem State.reg_noteMem (s : State) (rs : List Region) (r : Reg) : (s.noteMem rs).reg r = s.reg r := by
  simp [State.reg]
@[simp] theorem State.written_noteMem (s : State) (rs : List Region) (r : Reg) :
    (s.noteMem rs).written r = s.written r := by simp [State.written]

/-- A record is never taken back by reading (R609). -/
theorem State.noteRegs_keeps (s : State) (rs : List Reg) (h : s.unwrittenRead = true) :
    (s.noteRegs rs).unwrittenRead = true := by simp [h]

theorem State.notePoint_keeps (s : State) (j : Pair) (h : s.unwrittenRead = true) :
    (s.notePoint j).unwrittenRead = true := by
  unfold State.notePoint; split <;> simp [h]

theorem State.noteMem_keeps (s : State) (rs : List Region) (h : s.unwrittenRead = true) :
    (s.noteMem rs).unwrittenRead = true := by
  unfold State.noteMem; split <;> simp [h]

/-! ### Points -/

@[simp] theorem pairX_val (j : Pair) : (pairX j).val = 2 * j.val := rfl
@[simp] theorem pairY_val (j : Pair) : (pairY j).val = 2 * j.val + 1 := rfl
@[simp] theorem pairOf_val (r : Reg) : (pairOf r).val = r.val / 2 := rfl

theorem pairX_ne_pairY (i j : Pair) : pairX i ≠ pairY j := by
  intro h; have := congrArg Fin.val h; simp at this; omega

theorem pairX_inj {i j : Pair} (h : pairX i = pairX j) : i = j := by
  have := congrArg Fin.val h; simp at this; exact Fin.ext this

theorem pairY_inj {i j : Pair} (h : pairY i = pairY j) : i = j := by
  have := congrArg Fin.val h; simp at this; exact Fin.ext this

/-- An even pair field names its own register as the x-coordinate (R103). -/
theorem pairX_pairOf {r : Reg} (h : Reg.isEven r = true) : pairX (pairOf r) = r := by
  apply Fin.ext; simp [Reg.isEven] at h ⊢; omega

/-- An even pair field names the next register as the y-coordinate (R103). -/
theorem pairY_pairOf {r : Reg} (h : Reg.isEven r = true) : (pairY (pairOf r)).val = r.val + 1 := by
  simp [Reg.isEven] at h ⊢; omega

/-- Writing a tag changes that tag alone (R103, R104). -/
theorem setTag_getLsbD (t : BitVec 16) (j i : Pair) (b : Bool) :
    (setTag t j b).getLsbD i.val = if i = j then b else t.getLsbD i.val := by
  have hi := i.isLt
  have hj := j.isLt
  have key : (1#16 <<< j.val).getLsbD i.val = decide (i = j) := by
    rw [BitVec.getLsbD_shiftLeft, BitVec.getLsbD_one]
    simp only [Fin.ext_iff]
    by_cases h : i.val = j.val
    · simp [h, hj]
    · simp [h]; omega
  unfold setTag
  cases b
  · rw [if_neg Bool.false_ne_true, BitVec.getLsbD_and, BitVec.getLsbD_not, key]
    by_cases h : i = j <;> simp only [h, hj, hi, decide_true, decide_false, if_true, if_false, Bool.not_true,
      Bool.not_false, Bool.and_false, Bool.and_true]
  · rw [if_pos rfl, BitVec.getLsbD_or, key]
    by_cases h : i = j <;> simp only [h, decide_true, decide_false, if_true, if_false, Bool.or_true, Bool.or_false]

theorem State.isIdentity_writePoint (s : State) (j : Pair) (p : Point) (i : Pair) :
    (s.writePoint j p).isIdentity i = if i = j then decide (p = .identity) else s.isIdentity i := by
  cases p with
  | identity => exact (setTag_getLsbD s.tag j i true).trans (by simp [State.isIdentity])
  | affine x y => exact (setTag_getLsbD s.tag j i false).trans (by simp [State.isIdentity])

/-- WritePoint changes the two registers of its pair alone (R103). -/
theorem State.writePoint_getElem_of_ne (s : State) (j : Pair) (p : Point) {q : Reg} (hx : q ≠ pairX j)
    (hy : q ≠ pairY j) : (s.writePoint j p).x[q.val] = s.x[q.val] := by
  cases p <;> simp only [State.writePoint] <;>
    rw [State.setReg_getElem_of_ne _ _ hy, State.setReg_getElem_of_ne _ _ hx]

/-- ReadPoint after WritePoint gives the point written (R103). -/
theorem State.readPoint_writePoint (s : State) (j : Pair) (p : Point) : (s.writePoint j p).readPoint j = p := by
  cases p with
  | identity => simp [State.readPoint, State.isIdentity_writePoint]
  | affine x y =>
    have hx : (s.writePoint j (.affine x y)).reg (pairX j) = x := by
      show ((s.setReg (pairX j) x).setReg (pairY j) y).reg (pairX j) = x
      rw [State.reg_setReg, if_neg (pairX_ne_pairY j j), State.reg_setReg_self]
    have hy : (s.writePoint j (.affine x y)).reg (pairY j) = y := by
      show ((s.setReg (pairX j) x).setReg (pairY j) y).reg (pairY j) = y
      rw [State.reg_setReg_self]
    rw [State.readPoint, State.isIdentity_writePoint, if_pos rfl, hx, hy]
    simp

/-- The registers of a pair are written by WritePoint (R101, R103). -/
theorem State.written_writePoint (s : State) (j : Pair) (p : Point) :
    (s.writePoint j p).written (pairX j) = true ∧ (s.writePoint j p).written (pairY j) = true := by
  have h (x y : Nat) : ((s.setReg (pairX j) x).setReg (pairY j) y).written (pairX j) = true ∧
      ((s.setReg (pairX j) x).setReg (pairY j) y).written (pairY j) = true :=
    ⟨by rw [State.written_setReg, State.written_setReg_self, Bool.or_true], State.written_setReg_self _ _ _⟩
  cases p with
  | identity => exact h 0 0
  | affine x y => exact h x y

@[simp] theorem State.readPoint_noteRegs (s : State) (rs : List Reg) (j : Pair) :
    (s.noteRegs rs).readPoint j = s.readPoint j := rfl

@[simp] theorem State.readPoint_notePoint (s : State) (i j : Pair) :
    (s.notePoint i).readPoint j = s.readPoint j := by
  simp [State.readPoint, State.isIdentity]

/-- A pair that shows the identity, or whose registers have been written, leaves no record when read (R609). -/
theorem State.notePoint_of_written (s : State) {j : Pair}
    (h : s.isIdentity j = true ∨ (s.written (pairX j) = true ∧ s.written (pairY j) = true)) : s.notePoint j = s := by
  unfold State.notePoint
  split
  · rfl
  · next hn =>
    rcases h with h | h
    · exact absurd h hn
    · exact State.noteRegs_of_written s (by simpa using h)

/-! ### DMEM regions -/

@[simp] theorem State.memRead_length (s : State) (r : Region) : (s.memRead r).length = r.len := by
  simp [State.memRead]

/-- MemRead over written bytes gives those bytes (R205). -/
theorem State.memRead_eq (s : State) (a : Nat) (bs : List Byte)
    (h : ∀ i (hi : i < bs.length), s.dmem.read (a + i) = some bs[i]) : s.memRead ⟨a, bs.length⟩ = bs := by
  apply List.ext_getElem
  · simp
  · intro i h1 h2
    simp [State.memRead, State.byteAt, h i h2]

/-- Reading written bytes leaves no record (R205, R609). -/
theorem State.noteMem_of_written (s : State) {rs : List Region} (h : ∀ r ∈ rs, s.regionWritten r = true) :
    s.noteMem rs = s := by
  unfold State.noteMem; rw [if_pos (by simpa using h)]

theorem State.regionWritten_of_read (s : State) (a : Nat) (bs : List Byte)
    (h : ∀ i (hi : i < bs.length), s.dmem.read (a + i) = some bs[i]) : s.regionWritten ⟨a, bs.length⟩ = true := by
  simp only [State.regionWritten, List.all_eq_true, List.mem_range]
  intro i hi
  simp [h i hi]

/-- Reading an unwritten byte leaves UNWRITTEN_READ recorded (R205, R609). -/
theorem State.noteMem_of_unwritten (s : State) {rs : List Region} {r : Region} (hr : r ∈ rs)
    (h : s.regionWritten r = false) : (s.noteMem rs).unwrittenRead = true := by
  unfold State.noteMem
  rw [if_neg]
  intro hall
  rw [List.all_eq_true] at hall
  rw [hall r hr] at h
  exact Bool.noConfusion h

/-! ### Draws -/

/-- A draw's value is never out of range (R13). -/
theorem intoRange_mem {lo hi : Nat} (h : lo ≤ hi) (a : Nat) : lo ≤ intoRange lo hi a ∧ intoRange lo hi a ≤ hi := by
  unfold intoRange
  split
  · assumption
  · have := Nat.mod_lt a (show 0 < hi - lo + 1 by omega)
    omega

/-- An answer within the requested range is the draw's value (R13). -/
theorem intoRange_of_mem {lo hi a : Nat} (h1 : lo ≤ a) (h2 : a ≤ hi) : intoRange lo hi a = a := if_pos ⟨h1, h2⟩

theorem RandomSource.drawRange_mem {lo hi : Nat} (h : lo ≤ hi) (g : RandomSource) :
    lo ≤ (g.drawRange lo hi).1 ∧ (g.drawRange lo hi).1 ≤ hi := intoRange_mem h _

theorem RandomSource.drawBits_lt (k : Nat) (g : RandomSource) : (g.drawBits k).1 < 2 ^ k :=
  Nat.mod_lt _ (Nat.two_pow_pos k)

@[simp] theorem RandomSource.drawRange_drawn (lo hi : Nat) (g : RandomSource) :
    (g.drawRange lo hi).2.drawn = g.drawn + 1 := by
  obtain ⟨_ | _, _⟩ := g <;> rfl

@[simp] theorem RandomSource.drawBits_drawn (k : Nat) (g : RandomSource) :
    (g.drawBits k).2.drawn = g.drawn + 1 := by
  obtain ⟨_ | _, _⟩ := g <;> rfl

/-! ### The command cycle -/

/-- A command's step always leads to a next state, the settled one (R401, R622). -/
theorem conclude_eq (s : State) (r : CmdResult) : conclude s r = .next (s.settle r) := rfl

theorem conclude_next {s t : State} {r : CmdResult} (h : conclude s r = .next t) : t = s.settle r := by
  rw [conclude_eq] at h
  exact (Host.Outcome.next.inj h).symm

/-- What a command's step can do (R401): commit, raise, or go on searching. -/
theorem settle_cases (s : State) (r : CmdResult) :
    (∃ t, r = .commit t ∧ s.settle r = t.finish false 0#8) ∨
    (∃ e t, r = .raise e t ∧ s.settle r = t.finish true e.code) ∨
    (r = .searching ∧ s.settle r = { s with attempts := s.attempts + 1 }) := by
  cases r with
  | commit t => exact .inl ⟨t, rfl, rfl⟩
  | raise e t => exact .inr (.inl ⟨e, t, rfl, rfl⟩)
  | searching => exact .inr (.inr ⟨rfl, rfl⟩)

/-- The codes of R600 are 0x01 to 0x07. -/
theorem ErrCode.code_ne_zero (e : ErrCode) : e.code ≠ 0#8 := by cases e <;> decide

theorem ErrCode.code_le (e : ErrCode) : e.code.toNat ≤ 7 := by cases e <;> decide

/-! ### Window words of an operand register -/

/-- A window word written reads back (R102). -/
theorem windowWord_setWindowWord (v w : Nat) (d : Word) : windowWord (setWindowWord v w d) w = d := by
  apply BitVec.eq_of_toNat_eq
  have hd := d.isLt
  have hlt : v % 2 ^ (32 * w) < 2 ^ (32 * w) := Nat.mod_lt _ (Nat.two_pow_pos _)
  have hpow : (2 : Nat) ^ (32 * (w + 1)) = 2 ^ (32 * w) * 2 ^ 32 := by rw [← pow_add]; congr 1
  simp only [windowWord, setWindowWord, BitVec.toNat_ofNat]
  rw [hpow, show v % 2 ^ (32 * w) + d.toNat * 2 ^ (32 * w) + v / (2 ^ (32 * w) * 2 ^ 32) * (2 ^ (32 * w) * 2 ^ 32)
      = v % 2 ^ (32 * w) + 2 ^ (32 * w) * (d.toNat + 2 ^ 32 * (v / (2 ^ (32 * w) * 2 ^ 32))) by ring]
  rw [Nat.add_mul_div_left _ _ (Nat.two_pow_pos _), Nat.div_eq_of_lt hlt, Nat.zero_add, Nat.add_mul_mod_self_left,
    Nat.mod_eq_of_lt hd]

end Sys2Proof.Machine
end

