-- ==== Sys2Proof/Laws/Commands.lean ====
section
/-! SUPPORT. What every command has in common: its one step settles one result, a success keeps all that no command
writes, and an error keeps everything but the draws, the record of UNWRITTEN_READ and the count of free values. -/

namespace Sys2Proof.Machine

open Sys2Proof

/-- The result that the step of a command settles. -/
def commandResult (s : State) : Instr → CmdResult
  | .nop => .commit s
  | .montMul rd ra rb rc => cmdMontMul rd ra rb rc s
  | .modMul rd ra rb rc => cmdModMul rd ra rb rc s
  | .modExp rd ra rb rc => cmdModExp rd ra rb rc s
  | .modInv rd ra rc => cmdModInv rd ra rc s
  | .ecAdd rd ra rb => cmdEcAdd rd ra rb s
  | .ecDbl rd ra => cmdEcDbl rd ra s
  | .ecSmul rd ra rb => cmdEcSmul rd ra rb s
  | .ecOnCurve rd ra => cmdEcOnCurve rd ra s
  | .egKeygen rd rb => cmdEgKeygen rd rb s
  | .egEnc rd ra rb rc => cmdEgEnc rd ra rb rc s
  | .egDec rd ra rb rc => cmdEgDec rd ra rb rc s
  | .rsaPrimeTest rd ra aux => cmdRsaPrimeTest rd ra aux s
  | .rsaGenPrime rd ra => cmdRsaGenPrime rd ra s
  | .rsaKeygen rd ra rb rc => cmdRsaKeygen rd ra rb rc s
  | .rsaSign ra rb => cmdRsaSign ra rb s
  | .rsaVerify rd ra rb => cmdRsaVerify rd ra rb s
  | .salsaQr => cmdSalsaQr s
  | .salsaBlock => cmdSalsaBlock s
  | .salsaKs => cmdSalsaKs s
  | .salsaXor => cmdStream streamXor s
  | .ofbEnc => cmdStream ofb s
  | .ofbDec => cmdStream ofb s

/-- The step of every command (R401). -/
theorem exec_eq (i : Instr) (s : State) : exec i s = .next (s.settle (commandResult s i)) := by cases i <;> rfl

/-- What no command's writes change, before it settles. -/
structure Kept (s t : State) : Prop where
  cfg : t.cfg = s.cfg
  cmd : t.cmd = s.cmd
  status : t.status = s.status
  ie : t.ie = s.ie
  osel : t.osel = s.osel
  readData : t.readData = s.readData
  agenda : t.agenda = s.agenda
  desc : t.desc = { s.desc with lenD := t.desc.lenD }
  record : s.unwrittenRead = true → t.unwrittenRead = true

/-- What reading sources and making draws leaves unchanged. -/
structure Noted (s t : State) : Prop extends Kept s t where
  x : t.x = s.x
  tag : t.tag = s.tag
  dmem : t.dmem = s.dmem
  descriptors : t.desc = s.desc

theorem Kept.trans {a b c : State} (h : Kept a b) (g : Kept b c) : Kept a c :=
  ⟨g.cfg.trans h.cfg, g.cmd.trans h.cmd, g.status.trans h.status, g.ie.trans h.ie, g.osel.trans h.osel,
    g.readData.trans h.readData, g.agenda.trans h.agenda, by rw [g.desc, h.desc], fun x => g.record (h.record x)⟩

theorem Noted.refl (s : State) : Noted s s :=
  ⟨⟨rfl, rfl, rfl, rfl, rfl, rfl, rfl, rfl, id⟩, rfl, rfl, rfl, rfl⟩

theorem Noted.trans {a b c : State} (h : Noted a b) (g : Noted b c) : Noted a c :=
  ⟨h.toKept.trans g.toKept, g.x.trans h.x, g.tag.trans h.tag, g.dmem.trans h.dmem, g.descriptors.trans h.descriptors⟩

theorem State.noteRegs_noted (s : State) (rs : List Reg) : Noted s (s.noteRegs rs) :=
  ⟨⟨rfl, rfl, rfl, rfl, rfl, rfl, rfl, rfl, State.noteRegs_keeps s rs⟩, rfl, rfl, rfl, rfl⟩

theorem State.notePoint_noted (s : State) (j : Pair) : Noted s (s.notePoint j) := by
  refine ⟨⟨?_, ?_, ?_, ?_, ?_, ?_, ?_, ?_, State.notePoint_keeps s j⟩, ?_, ?_, ?_, ?_⟩ <;> simp

theorem State.noteMem_noted (s : State) (rs : List Region) : Noted s (s.noteMem rs) := by
  refine ⟨⟨?_, ?_, ?_, ?_, ?_, ?_, ?_, ?_, State.noteMem_keeps s rs⟩, ?_, ?_, ?_, ?_⟩ <;> simp

theorem State.setRng_noted (s : State) (g : RandomSource) : Noted s (s.setRng g) :=
  ⟨⟨rfl, rfl, rfl, rfl, rfl, rfl, rfl, rfl, id⟩, rfl, rfl, rfl, rfl⟩

theorem State.setReg_kept (s : State) (r : Reg) (v : Nat) : Kept s (s.setReg r v) :=
  ⟨rfl, rfl, rfl, rfl, rfl, rfl, rfl, rfl, id⟩

theorem State.writePoint_kept (s : State) (j : Pair) (p : Point) : Kept s (s.writePoint j p) := by
  cases p <;> exact ⟨rfl, rfl, rfl, rfl, rfl, rfl, rfl, rfl, id⟩

theorem State.storeOutput_kept (s : State) (out : List Byte) : Kept s (s.storeOutput out) :=
  ⟨rfl, rfl, rfl, rfl, rfl, rfl, rfl, rfl, id⟩

/-- A result reached from state s within the frame of every command. -/
def CmdResult.Framed (s : State) : CmdResult → Prop
  | .commit t => Kept s t
  | .raise _ t => Noted s t
  | .searching => True

theorem CmdResult.Framed.of_noted {s t : State} {r : CmdResult} (h : Noted s t) (g : r.Framed t) : r.Framed s := by
  cases r
  · exact h.toKept.trans g
  · exact h.trans g
  · trivial

theorem writeResult_framed (s : State) (j : Pair) (r : Option Point) : (writeResult j s r).Framed s := by
  cases r
  · exact Noted.refl s
  · exact State.writePoint_kept _ _ _

/-- The frame of every command (R401, R600). -/
theorem commandResult_framed (i : Instr) (s : State) : (commandResult s i).Framed s := by
  cases i
  case nop => exact (Noted.refl s).toKept
  case montMul rd ra rb rc =>
    simp only [commandResult, cmdMontMul]; refine CmdResult.Framed.of_noted (State.noteRegs_noted s [ra, rb, rc]) ?_
    split; · exact Noted.refl _
    split; · exact Noted.refl _
    exact State.setReg_kept _ _ _
  case modMul rd ra rb rc =>
    simp only [commandResult, cmdModMul]; refine CmdResult.Framed.of_noted (State.noteRegs_noted s [ra, rb, rc]) ?_
    split; · exact Noted.refl _
    exact State.setReg_kept _ _ _
  case modExp rd ra rb rc =>
    simp only [commandResult, cmdModExp]; refine CmdResult.Framed.of_noted (State.noteRegs_noted s [ra, rb, rc]) ?_
    split; · exact Noted.refl _
    exact State.setReg_kept _ _ _
  case modInv rd ra rc =>
    simp only [commandResult, cmdModInv]; refine CmdResult.Framed.of_noted (State.noteRegs_noted s [ra, rc]) ?_
    split; · exact Noted.refl _
    split; · exact Noted.refl _
    exact State.setReg_kept _ _ _
  case ecAdd rd ra rb =>
    simp only [commandResult, cmdEcAdd]; split; · exact Noted.refl _
    refine CmdResult.Framed.of_noted ((State.notePoint_noted s (pairOf ra)).trans (State.notePoint_noted _
      (pairOf rb))) ?_
    split; · exact Noted.refl _
    exact writeResult_framed _ _ _
  case ecDbl rd ra =>
    simp only [commandResult, cmdEcDbl]; split; · exact Noted.refl _
    refine CmdResult.Framed.of_noted (State.notePoint_noted s (pairOf ra)) ?_
    split; · exact Noted.refl _
    exact writeResult_framed _ _ _
  case ecSmul rd ra rb =>
    simp only [commandResult, cmdEcSmul]; split; · exact Noted.refl _
    refine CmdResult.Framed.of_noted ((State.noteRegs_noted s [ra]).trans (State.notePoint_noted _ (pairOf rb))) ?_
    split; · exact Noted.refl _
    split; · exact Noted.refl _
    exact writeResult_framed _ _ _
  case ecOnCurve rd ra =>
    simp only [commandResult, cmdEcOnCurve]; split; · exact Noted.refl _
    refine CmdResult.Framed.of_noted (State.notePoint_noted s (pairOf ra)) ?_
    split; · exact Noted.refl _
    exact State.setReg_kept _ _ _
  case egKeygen rd rb =>
    simp only [commandResult, cmdEgKeygen]; split; · exact Noted.refl _
    split; · exact Noted.refl _
    refine CmdResult.Framed.of_noted (State.setRng_noted s (s.rng.drawRange 1 (s.cfg.curve.n - 1)).2) ?_
    split; · exact Noted.refl _
    exact (State.setReg_kept _ _ _).trans (State.writePoint_kept _ _ _)
  case egEnc rd ra rb rc =>
    simp only [commandResult, cmdEgEnc]; split; · exact Noted.refl _
    split; · exact Noted.refl _
    refine CmdResult.Framed.of_noted ((State.notePoint_noted s (pairOf ra)).trans (State.noteRegs_noted _ [rb])) ?_
    split; · exact Noted.refl _
    split; · exact Noted.refl _
    split; · exact State.setRng_noted _ _
    split; · exact State.setRng_noted _ _
    unfold egEncResult
    split; · exact State.setRng_noted _ _
    split; · exact State.setRng_noted _ _
    exact (State.setRng_noted _ _).toKept.trans ((State.writePoint_kept _ _ _).trans (State.setReg_kept _ _ _))
  case egDec rd ra rb rc =>
    simp only [commandResult, cmdEgDec]; split; · exact Noted.refl _
    refine CmdResult.Framed.of_noted (((State.noteRegs_noted s [ra]).trans (State.notePoint_noted _ (pairOf
      rb))).trans (State.noteRegs_noted _ [rc])) ?_
    split; · exact Noted.refl _
    split; · exact Noted.refl _
    split; · exact Noted.refl _
    unfold egDecResult
    split; · exact Noted.refl _
    split; · exact Noted.refl _
    exact (State.setReg_kept _ _ _)
  case rsaPrimeTest rd ra aux =>
    simp only [commandResult, cmdRsaPrimeTest]; refine CmdResult.Framed.of_noted (State.noteRegs_noted s [ra]) ?_
    exact (State.setRng_noted _ _).toKept.trans (State.setReg_kept _ _ _)
  case rsaGenPrime rd ra =>
    simp only [commandResult, cmdRsaGenPrime]; refine CmdResult.Framed.of_noted (State.noteRegs_noted s [ra]) ?_
    split; · exact Noted.refl _
    split; · trivial
    exact (State.setRng_noted _ _).toKept.trans (State.setReg_kept _ _ _)
  case rsaKeygen rd ra rb rc =>
    simp only [commandResult, cmdRsaKeygen]
    split; · exact Noted.refl _
    refine CmdResult.Framed.of_noted (State.noteRegs_noted s [ra]) ?_
    split; · exact Noted.refl _
    split; · trivial
    · exact State.setRng_noted _ _
    exact (((State.setRng_noted _ _).toKept.trans (State.setReg_kept _ _ _)).trans (State.setReg_kept _ _
      _)).trans (State.setReg_kept _ _ _)
  case rsaSign ra rb =>
    simp only [commandResult, cmdRsaSign]
    refine CmdResult.Framed.of_noted (State.noteRegs_noted s [ra, rb]) ?_
    split; · exact Noted.refl _
    split; · exact State.noteMem_noted _ _
    exact (State.noteMem_noted _ _).toKept.trans (State.storeOutput_kept _ _)
  case rsaVerify rd ra rb =>
    simp only [commandResult, cmdRsaVerify]
    refine CmdResult.Framed.of_noted (State.noteRegs_noted s [ra, rb]) ?_
    split; · exact Noted.refl _
    split; · exact State.noteMem_noted _ _
    exact (State.noteMem_noted _ _).toKept.trans (State.setReg_kept _ _ _)
  case salsaQr =>
    simp only [commandResult, cmdSalsaQr]
    split; · exact Noted.refl _
    exact (State.noteMem_noted _ _).toKept.trans (State.storeOutput_kept _ _)
  case salsaBlock =>
    simp only [commandResult, cmdSalsaBlock]
    split; · exact Noted.refl _
    exact (State.noteMem_noted _ _).toKept.trans (State.storeOutput_kept _ _)
  case salsaKs =>
    simp only [commandResult, cmdSalsaKs]
    split; · exact Noted.refl _
    split; · exact Noted.refl _
    exact (State.noteMem_noted _ _).toKept.trans (State.storeOutput_kept _ _)
  all_goals
    simp only [commandResult, cmdStream]
    split; · exact Noted.refl _
    split; · exact Noted.refl _
    exact (State.noteMem_noted _ _).toKept.trans (State.storeOutput_kept _ _)

end Sys2Proof.Machine
end

