-- ==== Sys2Proof/Laws/Curves.lean ====
section
/-! SUPPORT. The two configurations that the spec gives meet R8 and R9 (00_scope.md): the primes of P-256 by Pratt
certificates, and the order of each base point by the kernel's evaluation of the scan of R459. -/

namespace Sys2Proof.Machine

open Sys2Proof

-- One theorem after the other: each `decide +kernel` waits for those before it, and each that waits would hold a thread.
set_option Elab.async false

/-- Lucas's test: p is prime where a has order p − 1 modulo p, `fs` being the prime factors of p − 1. -/
theorem prime_of_factors (p a : Nat) (fs : List Nat) (hp : 1 < p) (hprod : fs.prod = p - 1)
    (h1 : modExp a (p - 1) p = 1) (h2 : ∀ f ∈ fs, f.Prime ∧ modExp a ((p - 1) / f) p ≠ 1) : p.Prime := by
  have cast (e : Nat) : ((a : ZMod p) ^ e = 1) ↔ modExp a e p = 1 := by
    rw [modExp_eq a e p (by omega)]
    have h := ZMod.natCast_eq_natCast_iff' (a ^ e) 1 p
    push_cast at h
    rw [h, Nat.mod_eq_of_lt hp]
  refine lucas_primality p (a : ZMod p) ((cast _).2 h1) ?_
  intro q hq hd
  rw [← hprod] at hd
  obtain ⟨f, hf, hqf⟩ := (Prime.dvd_prod_iff hq.prime).1 hd
  obtain rfl := (Nat.prime_dvd_prime_iff_eq hq (h2 f hf).1).1 hqf
  exact fun h => (h2 q hf).2 ((cast _).1 h)

theorem prime_490463 : Nat.Prime 490463 := by
  refine prime_of_factors 490463 14 [2, 7, 53, 661]
    (by decide +kernel) (by decide +kernel) (by decide +kernel) ?_
  have primes : ∀ f ∈ [2, 7, 53, 661], Nat.Prime f := by
    simp only [List.forall_mem_cons, List.not_mem_nil, false_implies, implies_true, and_true]
    exact ⟨by norm_num, by norm_num, by norm_num, by norm_num⟩
  have orders :
      ∀ f ∈ [2, 7, 53, 661], f ∈ [2, 7, 53, 661] ∧ modExp 14 ((490463 - 1) / f) 490463 ≠ 1 := by
    decide +kernel
  exact fun f hf => ⟨primes f (orders f hf).1, (orders f hf).2⟩

theorem prime_6700417 : Nat.Prime 6700417 := by
  refine prime_of_factors 6700417 5 [2, 2, 2, 2, 2, 2, 2, 3, 17449]
    (by decide +kernel) (by decide +kernel) (by decide +kernel) ?_
  have primes : ∀ f ∈ [2, 3, 17449], Nat.Prime f := by
    simp only [List.forall_mem_cons, List.not_mem_nil, false_implies, implies_true, and_true]
    exact ⟨by norm_num, by norm_num, by norm_num⟩
  have orders :
      ∀ f ∈ [2, 2, 2, 2, 2, 2, 2, 3, 17449], f ∈ [2, 3, 17449] ∧ modExp 5 ((6700417 - 1) / f) 6700417 ≠ 1 := by
    decide +kernel
  exact fun f hf => ⟨primes f (orders f hf).1, (orders f hf).2⟩

theorem prime_204061199 : Nat.Prime 204061199 := by
  refine prime_of_factors 204061199 11 [2, 11, 23, 107, 3769]
    (by decide +kernel) (by decide +kernel) (by decide +kernel) ?_
  have primes : ∀ f ∈ [2, 11, 23, 107, 3769], Nat.Prime f := by
    simp only [List.forall_mem_cons, List.not_mem_nil, false_implies, implies_true, and_true]
    exact ⟨by norm_num, by norm_num, by norm_num, by norm_num, by norm_num⟩
  have orders :
      ∀ f ∈ [2, 11, 23, 107, 3769], f ∈ [2, 11, 23, 107, 3769] ∧ modExp 11 ((204061199 - 1) / f) 204061199 ≠ 1 := by
    decide +kernel
  exact fun f hf => ⟨primes f (orders f hf).1, (orders f hf).2⟩

theorem prime_34282281433 : Nat.Prime 34282281433 := by
  refine prime_of_factors 34282281433 17 [2, 2, 2, 3, 7, 204061199]
    (by decide +kernel) (by decide +kernel) (by decide +kernel) ?_
  have primes : ∀ f ∈ [2, 3, 7, 204061199], Nat.Prime f := by
    simp only [List.forall_mem_cons, List.not_mem_nil, false_implies, implies_true, and_true]
    exact ⟨by norm_num, by norm_num, by norm_num, prime_204061199⟩
  have orders :
      ∀ f ∈ [2, 2, 2, 3, 7, 204061199], f ∈ [2, 3, 7, 204061199] ∧ modExp 17 ((34282281433 - 1) / f) 34282281433 ≠ 1 := by
    decide +kernel
  exact fun f hf => ⟨primes f (orders f hf).1, (orders f hf).2⟩

theorem prime_66417393611 : Nat.Prime 66417393611 := by
  refine prime_of_factors 66417393611 6 [2, 5, 53, 173, 197, 3677]
    (by decide +kernel) (by decide +kernel) (by decide +kernel) ?_
  have primes : ∀ f ∈ [2, 5, 53, 173, 197, 3677], Nat.Prime f := by
    simp only [List.forall_mem_cons, List.not_mem_nil, false_implies, implies_true, and_true]
    exact ⟨by norm_num, by norm_num, by norm_num, by norm_num, by norm_num, by norm_num⟩
  have orders :
      ∀ f ∈ [2, 5, 53, 173, 197, 3677], f ∈ [2, 5, 53, 173, 197, 3677] ∧ modExp 6 ((66417393611 - 1) / f) 66417393611 ≠ 1 := by
    decide +kernel
  exact fun f hf => ⟨primes f (orders f hf).1, (orders f hf).2⟩

theorem prime_11290956913871 : Nat.Prime 11290956913871 := by
  refine prime_of_factors 11290956913871 13 [2, 5, 17, 66417393611]
    (by decide +kernel) (by decide +kernel) (by decide +kernel) ?_
  have primes : ∀ f ∈ [2, 5, 17, 66417393611], Nat.Prime f := by
    simp only [List.forall_mem_cons, List.not_mem_nil, false_implies, implies_true, and_true]
    exact ⟨by norm_num, by norm_num, by norm_num, prime_66417393611⟩
  have orders :
      ∀ f ∈ [2, 5, 17, 66417393611], f ∈ [2, 5, 17, 66417393611] ∧ modExp 13 ((11290956913871 - 1) / f) 11290956913871 ≠ 1 := by
    decide +kernel
  exact fun f hf => ⟨primes f (orders f hf).1, (orders f hf).2⟩

theorem prime_704251 : Nat.Prime 704251 := by
  refine prime_of_factors 704251 2 [2, 3, 3, 5, 5, 5, 313]
    (by decide +kernel) (by decide +kernel) (by decide +kernel) ?_
  have primes : ∀ f ∈ [2, 3, 5, 313], Nat.Prime f := by
    simp only [List.forall_mem_cons, List.not_mem_nil, false_implies, implies_true, and_true]
    exact ⟨by norm_num, by norm_num, by norm_num, by norm_num⟩
  have orders :
      ∀ f ∈ [2, 3, 3, 5, 5, 5, 313], f ∈ [2, 3, 5, 313] ∧ modExp 2 ((704251 - 1) / f) 704251 ≠ 1 := by
    decide +kernel
  exact fun f hf => ⟨primes f (orders f hf).1, (orders f hf).2⟩

theorem prime_46076956964474543 : Nat.Prime 46076956964474543 := by
  refine prime_of_factors 46076956964474543 5 [2, 23, 18169, 78283, 704251]
    (by decide +kernel) (by decide +kernel) (by decide +kernel) ?_
  have primes : ∀ f ∈ [2, 23, 18169, 78283, 704251], Nat.Prime f := by
    simp only [List.forall_mem_cons, List.not_mem_nil, false_implies, implies_true, and_true]
    exact ⟨by norm_num, by norm_num, by norm_num, by norm_num, prime_704251⟩
  have orders :
      ∀ f ∈ [2, 23, 18169, 78283, 704251], f ∈ [2, 23, 18169, 78283, 704251] ∧ modExp 5 ((46076956964474543 - 1) / f) 46076956964474543 ≠ 1 := by
    decide +kernel
  exact fun f hf => ⟨primes f (orders f hf).1, (orders f hf).2⟩

theorem prime_774023187263532362759620327192479577272145303 : Nat.Prime 774023187263532362759620327192479577272145303 := by
  refine prime_of_factors 774023187263532362759620327192479577272145303 3 [2, 3, 3, 2411, 34282281433, 11290956913871, 46076956964474543]
    (by decide +kernel) (by decide +kernel) (by decide +kernel) ?_
  have primes : ∀ f ∈ [2, 3, 2411, 34282281433, 11290956913871, 46076956964474543], Nat.Prime f := by
    simp only [List.forall_mem_cons, List.not_mem_nil, false_implies, implies_true, and_true]
    exact ⟨by norm_num, by norm_num, by norm_num, prime_34282281433, prime_11290956913871, prime_46076956964474543⟩
  have orders :
      ∀ f ∈ [2, 3, 3, 2411, 34282281433, 11290956913871, 46076956964474543], f ∈ [2, 3, 2411, 34282281433, 11290956913871, 46076956964474543] ∧ modExp 3 ((774023187263532362759620327192479577272145303 - 1) / f) 774023187263532362759620327192479577272145303 ≠ 1 := by
    decide +kernel
  exact fun f hf => ⟨primes f (orders f hf).1, (orders f hf).2⟩

theorem prime_835945042244614951780389953367877943453916927241 : Nat.Prime 835945042244614951780389953367877943453916927241 := by
  refine prime_of_factors 835945042244614951780389953367877943453916927241 11 [2, 2, 2, 3, 3, 3, 5, 774023187263532362759620327192479577272145303]
    (by decide +kernel) (by decide +kernel) (by decide +kernel) ?_
  have primes : ∀ f ∈ [2, 3, 5, 774023187263532362759620327192479577272145303], Nat.Prime f := by
    simp only [List.forall_mem_cons, List.not_mem_nil, false_implies, implies_true, and_true]
    exact ⟨by norm_num, by norm_num, by norm_num, prime_774023187263532362759620327192479577272145303⟩
  have orders :
      ∀ f ∈ [2, 2, 2, 3, 3, 3, 5, 774023187263532362759620327192479577272145303], f ∈ [2, 3, 5, 774023187263532362759620327192479577272145303] ∧ modExp 11 ((835945042244614951780389953367877943453916927241 - 1) / f) 835945042244614951780389953367877943453916927241 ≠ 1 := by
    decide +kernel
  exact fun f hf => ⟨primes f (orders f hf).1, (orders f hf).2⟩

/-- The field prime of P-256 is prime (R9, R450). -/
theorem p256_p_prime : Config.p256.p.Prime := by
  refine prime_of_factors Config.p256.p 6 [2, 3, 5, 5, 17, 257, 641, 1531, 65537, 490463, 6700417, 835945042244614951780389953367877943453916927241]
    (by decide +kernel) (by decide +kernel) (by decide +kernel) ?_
  have primes : ∀ f ∈ [2, 3, 5, 17, 257, 641, 1531, 65537, 490463, 6700417, 835945042244614951780389953367877943453916927241], Nat.Prime f := by
    simp only [List.forall_mem_cons, List.not_mem_nil, false_implies, implies_true, and_true]
    exact ⟨by norm_num, by norm_num, by norm_num, by norm_num, by norm_num, by norm_num, by norm_num, by norm_num, prime_490463, prime_6700417, prime_835945042244614951780389953367877943453916927241⟩
  have orders :
      ∀ f ∈ [2, 3, 5, 5, 17, 257, 641, 1531, 65537, 490463, 6700417, 835945042244614951780389953367877943453916927241], f ∈ [2, 3, 5, 17, 257, 641, 1531, 65537, 490463, 6700417, 835945042244614951780389953367877943453916927241] ∧ modExp 6 ((Config.p256.p - 1) / f) Config.p256.p ≠ 1 := by
    decide +kernel
  exact fun f hf => ⟨primes f (orders f hf).1, (orders f hf).2⟩

theorem prime_9350987 : Nat.Prime 9350987 := by
  refine prime_of_factors 9350987 2 [2, 17, 229, 1201]
    (by decide +kernel) (by decide +kernel) (by decide +kernel) ?_
  have primes : ∀ f ∈ [2, 17, 229, 1201], Nat.Prime f := by
    simp only [List.forall_mem_cons, List.not_mem_nil, false_implies, implies_true, and_true]
    exact ⟨by norm_num, by norm_num, by norm_num, by norm_num⟩
  have orders :
      ∀ f ∈ [2, 17, 229, 1201], f ∈ [2, 17, 229, 1201] ∧ modExp 2 ((9350987 - 1) / f) 9350987 ≠ 1 := by
    decide +kernel
  exact fun f hf => ⟨primes f (orders f hf).1, (orders f hf).2⟩

theorem prime_187019741 : Nat.Prime 187019741 := by
  refine prime_of_factors 187019741 2 [2, 2, 5, 9350987]
    (by decide +kernel) (by decide +kernel) (by decide +kernel) ?_
  have primes : ∀ f ∈ [2, 5, 9350987], Nat.Prime f := by
    simp only [List.forall_mem_cons, List.not_mem_nil, false_implies, implies_true, and_true]
    exact ⟨by norm_num, by norm_num, prime_9350987⟩
  have orders :
      ∀ f ∈ [2, 2, 5, 9350987], f ∈ [2, 5, 9350987] ∧ modExp 2 ((187019741 - 1) / f) 187019741 ≠ 1 := by
    decide +kernel
  exact fun f hf => ⟨primes f (orders f hf).1, (orders f hf).2⟩

theorem prime_311245691 : Nat.Prime 311245691 := by
  refine prime_of_factors 311245691 2 [2, 5, 7, 17, 29, 29, 311]
    (by decide +kernel) (by decide +kernel) (by decide +kernel) ?_
  have primes : ∀ f ∈ [2, 5, 7, 17, 29, 311], Nat.Prime f := by
    simp only [List.forall_mem_cons, List.not_mem_nil, false_implies, implies_true, and_true]
    exact ⟨by norm_num, by norm_num, by norm_num, by norm_num, by norm_num, by norm_num⟩
  have orders :
      ∀ f ∈ [2, 5, 7, 17, 29, 29, 311], f ∈ [2, 5, 7, 17, 29, 311] ∧ modExp 2 ((311245691 - 1) / f) 311245691 ≠ 1 := by
    decide +kernel
  exact fun f hf => ⟨primes f (orders f hf).1, (orders f hf).2⟩

theorem prime_622491383 : Nat.Prime 622491383 := by
  refine prime_of_factors 622491383 5 [2, 311245691]
    (by decide +kernel) (by decide +kernel) (by decide +kernel) ?_
  have primes : ∀ f ∈ [2, 311245691], Nat.Prime f := by
    simp only [List.forall_mem_cons, List.not_mem_nil, false_implies, implies_true, and_true]
    exact ⟨by norm_num, prime_311245691⟩
  have orders :
      ∀ f ∈ [2, 311245691], f ∈ [2, 311245691] ∧ modExp 5 ((622491383 - 1) / f) 622491383 ≠ 1 := by
    decide +kernel
  exact fun f hf => ⟨primes f (orders f hf).1, (orders f hf).2⟩

theorem prime_3969899 : Nat.Prime 3969899 := by
  refine prime_of_factors 3969899 2 [2, 19, 104471]
    (by decide +kernel) (by decide +kernel) (by decide +kernel) ?_
  have primes : ∀ f ∈ [2, 19, 104471], Nat.Prime f := by
    simp only [List.forall_mem_cons, List.not_mem_nil, false_implies, implies_true, and_true]
    exact ⟨by norm_num, by norm_num, by norm_num⟩
  have orders :
      ∀ f ∈ [2, 19, 104471], f ∈ [2, 19, 104471] ∧ modExp 2 ((3969899 - 1) / f) 3969899 ≠ 1 := by
    decide +kernel
  exact fun f hf => ⟨primes f (orders f hf).1, (orders f hf).2⟩

theorem prime_1002328039319 : Nat.Prime 1002328039319 := by
  refine prime_of_factors 1002328039319 19 [2, 126241, 3969899]
    (by decide +kernel) (by decide +kernel) (by decide +kernel) ?_
  have primes : ∀ f ∈ [2, 126241, 3969899], Nat.Prime f := by
    simp only [List.forall_mem_cons, List.not_mem_nil, false_implies, implies_true, and_true]
    exact ⟨by norm_num, by norm_num, prime_3969899⟩
  have orders :
      ∀ f ∈ [2, 126241, 3969899], f ∈ [2, 126241, 3969899] ∧ modExp 19 ((1002328039319 - 1) / f) 1002328039319 ≠ 1 := by
    decide +kernel
  exact fun f hf => ⟨primes f (orders f hf).1, (orders f hf).2⟩

theorem prime_191039911 : Nat.Prime 191039911 := by
  refine prime_of_factors 191039911 3 [2, 3, 5, 41, 155317]
    (by decide +kernel) (by decide +kernel) (by decide +kernel) ?_
  have primes : ∀ f ∈ [2, 3, 5, 41, 155317], Nat.Prime f := by
    simp only [List.forall_mem_cons, List.not_mem_nil, false_implies, implies_true, and_true]
    exact ⟨by norm_num, by norm_num, by norm_num, by norm_num, by norm_num⟩
  have orders :
      ∀ f ∈ [2, 3, 5, 41, 155317], f ∈ [2, 3, 5, 41, 155317] ∧ modExp 3 ((191039911 - 1) / f) 191039911 ≠ 1 := by
    decide +kernel
  exact fun f hf => ⟨primes f (orders f hf).1, (orders f hf).2⟩

theorem prime_208150935158385979 : Nat.Prime 208150935158385979 := by
  refine prime_of_factors 208150935158385979 2 [2, 3, 11, 43, 127, 3023, 191039911]
    (by decide +kernel) (by decide +kernel) (by decide +kernel) ?_
  have primes : ∀ f ∈ [2, 3, 11, 43, 127, 3023, 191039911], Nat.Prime f := by
    simp only [List.forall_mem_cons, List.not_mem_nil, false_implies, implies_true, and_true]
    exact ⟨by norm_num, by norm_num, by norm_num, by norm_num, by norm_num, by norm_num, prime_191039911⟩
  have orders :
      ∀ f ∈ [2, 3, 11, 43, 127, 3023, 191039911], f ∈ [2, 3, 11, 43, 127, 3023, 191039911] ∧ modExp 2 ((208150935158385979 - 1) / f) 208150935158385979 ≠ 1 := by
    decide +kernel
  exact fun f hf => ⟨primes f (orders f hf).1, (orders f hf).2⟩

theorem prime_2624747550333869278416773953 : Nat.Prime 2624747550333869278416773953 := by
  refine prime_of_factors 2624747550333869278416773953 7 [2, 2, 2, 2, 2, 2, 3, 3, 1297, 16879, 208150935158385979]
    (by decide +kernel) (by decide +kernel) (by decide +kernel) ?_
  have primes : ∀ f ∈ [2, 3, 1297, 16879, 208150935158385979], Nat.Prime f := by
    simp only [List.forall_mem_cons, List.not_mem_nil, false_implies, implies_true, and_true]
    exact ⟨by norm_num, by norm_num, by norm_num, by norm_num, prime_208150935158385979⟩
  have orders :
      ∀ f ∈ [2, 2, 2, 2, 2, 2, 3, 3, 1297, 16879, 208150935158385979], f ∈ [2, 3, 1297, 16879, 208150935158385979] ∧ modExp 7 ((2624747550333869278416773953 - 1) / f) 2624747550333869278416773953 ≠ 1 := by
    decide +kernel
  exact fun f hf => ⟨primes f (orders f hf).1, (orders f hf).2⟩

/-- The order of P-256 is prime (R9, R450). -/
theorem p256_n_prime : Config.p256.n.Prime := by
  refine prime_of_factors Config.p256.n 7 [2, 2, 2, 2, 3, 71, 131, 373, 3407, 17449, 38189, 187019741, 622491383, 1002328039319, 2624747550333869278416773953]
    (by decide +kernel) (by decide +kernel) (by decide +kernel) ?_
  have primes : ∀ f ∈ [2, 3, 71, 131, 373, 3407, 17449, 38189, 187019741, 622491383, 1002328039319, 2624747550333869278416773953], Nat.Prime f := by
    simp only [List.forall_mem_cons, List.not_mem_nil, false_implies, implies_true, and_true]
    exact ⟨by norm_num, by norm_num, by norm_num, by norm_num, by norm_num, by norm_num, by norm_num, by norm_num, prime_187019741, prime_622491383, prime_1002328039319, prime_2624747550333869278416773953⟩
  have orders :
      ∀ f ∈ [2, 2, 2, 2, 3, 71, 131, 373, 3407, 17449, 38189, 187019741, 622491383, 1002328039319, 2624747550333869278416773953], f ∈ [2, 3, 71, 131, 373, 3407, 17449, 38189, 187019741, 622491383, 1002328039319, 2624747550333869278416773953] ∧ modExp 7 ((Config.p256.n - 1) / f) Config.p256.n ≠ 1 := by
    decide +kernel
  exact fun f hf => ⟨primes f (orders f hf).1, (orders f hf).2⟩

/-- The base point of P-256 has order n (R9, R450, R459). -/
theorem p256_order : scalarMult Config.p256 Config.p256.n (basePoint Config.p256) = some .identity := by
  decide +kernel

/-- The base point of TOY97 has order n (R9, R451, R459). -/
theorem toy97_order : scalarMult Config.toy97 Config.toy97.n (basePoint Config.toy97) = some .identity := by
  decide +kernel

/-- CFG-D is well-formed (R8, R9). -/
theorem default_wellFormed : wellFormedConfig Config.default :=
  ⟨by decide +kernel, p256_p_prime, by decide +kernel, by decide +kernel, by decide +kernel, by decide +kernel,
    by decide +kernel, by decide +kernel, by decide +kernel, by decide +kernel, p256_n_prime, by decide +kernel,
    by decide +kernel, p256_order⟩

/-- CFG-T is well-formed (R8, R9). -/
theorem test_wellFormed : wellFormedConfig Config.test :=
  ⟨by decide +kernel, by norm_num [Config.test, Config.toy97], by decide +kernel, by decide +kernel, by decide +kernel,
    by decide +kernel, by decide +kernel, by decide +kernel, by decide +kernel, by decide +kernel,
    by norm_num [Config.test, Config.toy97], by decide +kernel, by decide +kernel, toy97_order⟩

end Sys2Proof.Machine
end

