-- ==== Sys2Proof/Laws/Group.lean ====
section
/-! SUPPORT. PointAdd and ScalarMult (R454, R459) against the group of the curve, which is Mathlib's group of the affine
points of a Weierstrass curve over ZMod p: what an addition and a scan answer, for points that a point of the group shows. -/

namespace Sys2Proof.Machine

open Sys2Proof

/-- The curve y² = x³ + a·x + b over ZMod p (R450). -/
def groupCurve (c : Curve) : WeierstrassCurve.Affine (ZMod c.p) := ⟨0, 0, 0, (c.a : ZMod c.p), (c.b : ZMod c.p)⟩

/-- A point of the machine shows a point of the group: O shows 0, (x, y) with x, y < p the point with those coordinates. -/
def Shows (c : Curve) : Point → (groupCurve c).Point → Prop
  | .identity, .zero => True
  | .affine x y, .some X Y _ => x < c.p ∧ y < c.p ∧ X = x ∧ Y = y
  | .identity, .some _ _ _ => False
  | .affine _ _, .zero => False

/-- Two residues below p are equal where their classes are. -/
theorem eq_of_cast {p a b : Nat} (ha : a < p) (hb : b < p) (h : (a : ZMod p) = b) : a = b := by
  have h := (ZMod.natCast_eq_natCast_iff' a b p).1 h
  rwa [Nat.mod_eq_of_lt ha, Nat.mod_eq_of_lt hb] at h

/-- A machine point shows at most one group point, and a group point is shown by at most one machine point. -/
theorem Shows.unique {c : Curve} {p q : Point} {P : (groupCurve c).Point} (hp : Shows c p P) (hq : Shows c q P) : p = q := by
  cases P with
  | zero => cases p <;> cases q <;> first | rfl | exact hp.elim | exact hq.elim
  | some X Y h =>
    cases p with
    | identity => exact hp.elim
    | affine x y =>
      cases q with
      | identity => exact hq.elim
      | affine x' y' =>
        obtain ⟨h1, h2, h3, h4⟩ := hp
        obtain ⟨k1, k2, k3, k4⟩ := hq
        rw [eq_of_cast h1 k1 (h3.symm.trans k3), eq_of_cast h2 k2 (h4.symm.trans k4)]

/-- ModInv(v, p) for a prime p (R430, R456): the inverse in ZMod p, and NO_INVERSE for the class of 0. -/
theorem modInv_prime {p : Nat} (hp : p.Prime) [Fact p.Prime] (v : Int) :
    ((v : ZMod p) ≠ 0 → ∃ r : Nat, modInv v p = some r ∧ (r : ZMod p) = (v : ZMod p)⁻¹) ∧
      ((v : ZMod p) = 0 → modInv v p = none) := by
  have hg : Int.gcd v p = 1 ↔ (v : ZMod p) ≠ 0 := by
    rw [Ne, ZMod.intCast_zmod_eq_zero_iff_dvd, Int.gcd_comm, ← Int.isCoprime_iff_gcd_eq_one,
      (Nat.prime_iff_prime_int.1 hp).coprime_iff_not_dvd]
  refine ⟨fun h => ?_, fun h => (modInv_spec v p hp.ne_zero).2 (fun h1 => hg.1 h1 h)⟩
  obtain ⟨r, h1, -, h3⟩ := (modInv_spec v p hp.ne_zero).1 (hg.2 h)
  refine ⟨r, h1, eq_inv_of_mul_eq_one_right ?_⟩
  have h3 := (ZMod.intCast_eq_intCast_iff' (v * r) 1 p).2 h3
  push_cast at h3
  exact h3

/-- The residue of an integer, as a coordinate. -/
theorem residue {p : Nat} (hp : p ≠ 0) (v : Int) : (v % p).toNat < p ∧ (((v % p).toNat : Nat) : ZMod p) = v := by
  have h0 := Int.emod_nonneg v (show (p : Int) ≠ 0 by omega)
  have h1 := Int.emod_lt_of_pos v (show (0 : Int) < p by omega)
  refine ⟨by omega, ?_⟩
  have h : (((v % p).toNat : Int) : ZMod p) = ((v % p : Int) : ZMod p) := by rw [Int.toNat_of_nonneg h0]
  rw [Int.cast_natCast] at h
  rw [h, ZMod.intCast_mod]

/-- The slope in ZMod p (R454, R456), where it exists; NO_INVERSE where y1 = 0 in the tangent case. -/
theorem chordSlope_cast {c : Curve} (hp : c.p.Prime) [Fact c.p.Prime] (h2 : 2 < c.p) {x1 y1 x2 y2 : Nat} (a1 : x1 < c.p)
    (a2 : x2 < c.p) :
    (x1 ≠ x2 → ∃ lam, chordSlope c x1 y1 x2 y2 = some lam ∧
      (lam : ZMod c.p) = ((y1 : ZMod c.p) - y2) / ((x1 : ZMod c.p) - x2)) ∧
    (x1 = x2 → (y1 : ZMod c.p) ≠ 0 → ∃ lam, chordSlope c x1 y1 x2 y2 = some lam ∧
      (lam : ZMod c.p) = (3 * (x1 : ZMod c.p) ^ 2 + c.a) / (2 * y1)) ∧
    (x1 = x2 → (y1 : ZMod c.p) = 0 → chordSlope c x1 y1 x2 y2 = none) := by
  refine ⟨fun hx => ?_, fun hx hy => ?_, fun hx hy => ?_⟩
  · have hd : (((x2 : Int) - x1 : Int) : ZMod c.p) ≠ 0 := by
      push_cast
      exact fun h => hx (eq_of_cast a1 a2 (sub_eq_zero.1 h).symm)
    obtain ⟨i, h1, h3⟩ := (modInv_prime hp _).1 hd
    refine ⟨_, by rw [chordSlope, if_neg hx, h1]; rfl, ?_⟩
    rw [(residue hp.ne_zero _).2]
    push_cast at h3 ⊢
    rw [h3, ← neg_sub (y1 : ZMod c.p), ← neg_sub (x1 : ZMod c.p), inv_neg, neg_mul_neg, div_eq_mul_inv]
  · have h20 : (2 : ZMod c.p) ≠ 0 := by
      intro h
      have := eq_of_cast (p := c.p) (a := 2) (b := 0) h2 (by omega) (by exact_mod_cast h)
      omega
    have hd : ((2 * (y1 : Int) : Int) : ZMod c.p) ≠ 0 := by push_cast; exact mul_ne_zero h20 hy
    obtain ⟨i, h1, h3⟩ := (modInv_prime hp _).1 hd
    refine ⟨_, by rw [chordSlope, if_pos hx, h1]; rfl, ?_⟩
    push_cast at h3 ⊢
    rw [ZMod.natCast_mod]
    push_cast
    rw [h3, div_eq_mul_inv]
    ring
  · rw [chordSlope, if_pos hx, (modInv_prime hp _).2 (by push_cast; rw [hy, mul_zero])]
    rfl

/-- The discriminant of a curve that meets R9 is not 0. -/
theorem groupCurve_Δ {c : Curve} (hc : curveOk c) [Fact c.p.Prime] : (groupCurve c).Δ ≠ 0 := by
  have h2 : (2 : ZMod c.p) ≠ 0 := by
    intro h
    have := eq_of_cast (p := c.p) (a := 2) (b := 0) (by have := hc.2.2.1; omega) (by have := hc.2.2.1; omega)
      (by exact_mod_cast h)
    omega
  have hd : (4 * (c.a : ZMod c.p) ^ 3 + 27 * (c.b : ZMod c.p) ^ 2) ≠ 0 := by
    intro h
    refine hc.2.2.2.2.2.1 (Nat.mod_eq_zero_of_dvd ((ZMod.natCast_eq_zero_iff _ _).1 ?_))
    push_cast
    exact h
  have e : (groupCurve c).Δ = -(2 ^ 4) * (4 * (c.a : ZMod c.p) ^ 3 + 27 * (c.b : ZMod c.p) ^ 2) := by
    simp only [WeierstrassCurve.Δ, WeierstrassCurve.b₂, WeierstrassCurve.b₄, WeierstrassCurve.b₆, WeierstrassCurve.b₈,
      groupCurve]
    ring
  rw [e]
  exact mul_ne_zero (neg_ne_zero.2 (pow_ne_zero _ h2)) hd

/-- Every point in range that lies on the curve shows a point of the group (R452, R453). -/
theorem exists_shows {c : Curve} (hc : curveOk c) [Fact c.p.Prime] {p : Point} (hr : p.inRange c = true)
    (ho : isOnCurve c p = true) : ∃ P, Shows c p P := by
  cases p with
  | identity => exact ⟨.zero, trivial⟩
  | affine x y =>
    simp only [Point.inRange, Bool.and_eq_true, decide_eq_true_eq] at hr
    have he : (groupCurve c).Equation (x : ZMod c.p) (y : ZMod c.p) := by
      rw [WeierstrassCurve.Affine.equation_iff']
      simp only [isOnCurve, decide_eq_true_eq] at ho
      have ho := (ZMod.intCast_zmod_eq_zero_iff_dvd _ c.p).2 (Int.dvd_of_emod_eq_zero ho)
      push_cast at ho
      simp only [groupCurve]
      linear_combination ho
    have hn := ((groupCurve c).equation_iff_nonsingular_of_Δ_ne_zero (groupCurve_Δ hc)).1 he
    exact ⟨.some _ _ hn, hr.1, hr.2, rfl, rfl⟩

/-- A machine point that shows a group point is in range and lies on the curve. -/
theorem Shows.inRange_onCurve {c : Curve} [Fact c.p.Prime] {p : Point} {P : (groupCurve c).Point} (h : Shows c p P) :
    p.inRange c = true ∧ isOnCurve c p = true := by
  cases p with
  | identity => exact ⟨rfl, rfl⟩
  | affine x y =>
    cases P with
    | zero => exact h.elim
    | some X Y hn =>
      obtain ⟨h1, h2, rfl, rfl⟩ := h
      refine ⟨by simp [Point.inRange, h1, h2], ?_⟩
      have he := (WeierstrassCurve.Affine.equation_iff' _ _).1 hn.1
      simp only [groupCurve] at he
      simp only [isOnCurve, decide_eq_true_eq]
      refine Int.emod_eq_zero_of_dvd ((ZMod.intCast_zmod_eq_zero_iff_dvd _ c.p).1 ?_)
      push_cast
      linear_combination he

/-- PointAdd (R454, R455) on shown points: it raises where both are the same point with y = 0, whose double in the group is
O; anywhere else it answers the machine point that shows the sum. -/
theorem pointAdd_shows {c : Curve} (hc : curveOk c) [Fact c.p.Prime] {p q : Point} {P Q : (groupCurve c).Point}
    (hp : Shows c p P) (hq : Shows c q Q) :
    (∃ r, pointAdd c p q = some r ∧ Shows c r (P + Q)) ∨
      (pointAdd c p q = none ∧ P = Q ∧ P ≠ 0 ∧ P + P = 0) := by
  have hpr := hc.1
  have h3 := hc.2.2.1
  cases p with
  | identity =>
    cases P with
    | zero => exact .inl ⟨q, rfl, by
          rw [show (WeierstrassCurve.Affine.Point.zero : (groupCurve c).Point) = 0 from rfl, zero_add]
          exact hq⟩
    | some X Y h => exact hp.elim
  | affine x1 y1 =>
    cases P with
    | zero => exact hp.elim
    | some X1 Y1 n1 =>
      cases q with
      | identity =>
        cases Q with
        | zero => exact .inl ⟨_, rfl, by
            rw [show (WeierstrassCurve.Affine.Point.zero : (groupCurve c).Point) = 0 from rfl, add_zero]
            exact hp⟩
        | some X Y h => exact hq.elim
      | affine x2 y2 =>
        cases Q with
        | zero => exact hq.elim
        | some X2 Y2 n2 =>
          obtain ⟨a1, b1, rfl, rfl⟩ := hp
          obtain ⟨a2, b2, rfl, rfl⟩ := hq
          have neg (x y : ZMod c.p) : (groupCurve c).negY x y = -y := by
            simp [WeierstrassCurve.Affine.negY, groupCurve]
          obtain ⟨s1, s2, s3⟩ := chordSlope_cast (y1 := y1) (y2 := y2) hpr (by omega : 2 < c.p) a1 a2
          have h20 : (2 : ZMod c.p) ≠ 0 := by
            intro h
            have := eq_of_cast (p := c.p) (a := 2) (b := 0) (by omega) (by omega) (by exact_mod_cast h)
            omega
          -- the sum of the group, once the slope is that of the group
          have finish (lam : Nat) (hs : chordSlope c x1 y1 x2 y2 = some lam) (hv : ¬ (x1 = x2 ∧ y1 ≠ y2))
              (hxy : ¬ ((x1 : ZMod c.p) = x2 ∧ (y1 : ZMod c.p) = (groupCurve c).negY x2 y2))
              (hl : (lam : ZMod c.p) = (groupCurve c).slope (x1 : ZMod c.p) x2 y1 y2) :
              ∃ r, pointAdd c (.affine x1 y1) (.affine x2 y2) = some r ∧
                Shows c r (WeierstrassCurve.Affine.Point.some _ _ n1 + WeierstrassCurve.Affine.Point.some _ _ n2) := by
            refine ⟨_, by simp only [pointAdd, if_neg hv, hs]; rfl, ?_⟩
            rw [WeierstrassCurve.Affine.Point.add_some hxy]
            have r1 := residue hpr.ne_zero ((lam * lam : Int) - x1 - x2)
            generalize (((lam * lam : Int) - x1 - x2) % c.p).toNat = x3 at r1 ⊢
            have r2 := residue hpr.ne_zero ((lam : Int) * ((x1 : Int) - x3) - y1)
            have e1 : (groupCurve c).addX (x1 : ZMod c.p) x2 ((groupCurve c).slope (x1 : ZMod c.p) x2 y1 y2) = x3 := by
              rw [r1.2, ← hl]
              simp only [WeierstrassCurve.Affine.addX, groupCurve]
              push_cast
              ring
            refine ⟨r1.1, r2.1, e1, ?_⟩
            rw [r2.2, WeierstrassCurve.Affine.addY, WeierstrassCurve.Affine.negAddY, e1, ← hl, neg]
            push_cast
            ring
          by_cases hx : x1 = x2
          · subst hx
            by_cases hy : y1 = y2
            · subst hy
              by_cases h0 : (y1 : ZMod c.p) = 0
              · refine .inr ⟨by simp only [pointAdd, s3 rfl h0]; simp, rfl, ?_, ?_⟩
                · exact WeierstrassCurve.Affine.Point.some_ne_zero _
                · exact WeierstrassCurve.Affine.Point.add_of_Y_eq rfl (by rw [neg, h0, neg_zero])
              · obtain ⟨lam, hs, hl⟩ := s2 rfl h0
                have hne : (y1 : ZMod c.p) ≠ (groupCurve c).negY x1 y1 := by
                  rw [neg]
                  intro h
                  have h' : (2 : ZMod c.p) * y1 = 0 := by linear_combination h
                  rcases mul_eq_zero.1 h' with h' | h'
                  · exact h20 h'
                  · exact h0 h'
                refine .inl (finish lam hs (by simp) (fun h => hne h.2) ?_)
                rw [WeierstrassCurve.Affine.slope_of_Y_ne rfl hne, hl, neg]
                simp only [groupCurve]
                congr 1 <;> ring
            · refine .inl ⟨.identity, by simp [pointAdd, hy], ?_⟩
              rw [WeierstrassCurve.Affine.Point.add_of_Y_eq rfl]
              · trivial
              · rcases WeierstrassCurve.Affine.Y_eq_of_X_eq n1.1 n2.1 rfl with h | h
                · exact absurd (eq_of_cast b1 b2 h) hy
                · exact h
          · obtain ⟨lam, hs, hl⟩ := s1 hx
            have hxc : (x1 : ZMod c.p) ≠ x2 := fun h => hx (eq_of_cast a1 a2 h)
            refine .inl (finish lam hs (fun h => hx h.1) (fun h => hxc h.1) ?_)
            rw [WeierstrassCurve.Affine.slope_of_X_ne hxc, hl]

/-- A point of odd order is not its own negative, unless it is 0. -/
theorem double_ne_zero {c : Curve} [Fact c.p.Prime] {N : Nat} (hN : N % 2 = 1) {P : (groupCurve c).Point} (h : N • P = 0)
    (h2 : P + P = 0) : P = 0 := by
  have e : N • P = (N / 2) • (P + P) + P := by
    rw [← two_nsmul, ← mul_nsmul']
    conv_lhs => rw [← Nat.div_add_mod N 2, hN, add_nsmul, one_nsmul, mul_comm]
  rw [e, h2, nsmul_zero, zero_add] at h
  exact h

/-- The turns of the scan (R459) on shown points: where they answer, the answer shows acc + (the next n bits of k)·run; and
they do answer where an odd number annihilates both points (R455 (b)). -/
theorem scan_shows {c : Curve} (hc : curveOk c) [Fact c.p.Prime] (k : Nat) :
    ∀ (n i : Nat) (acc run : Point) (A R : (groupCurve c).Point), Shows c acc A → Shows c run R →
      (∀ r, scan c k n i acc run = some r → Shows c r (A + (k / 2 ^ i % 2 ^ n) • R)) ∧
      (∀ N : Nat, N % 2 = 1 → N • A = 0 → N • R = 0 → ∃ r, scan c k n i acc run = some r) := by
  intro n
  induction n with
  | zero =>
    intro i acc run A R ha _
    refine ⟨fun r h => ?_, fun _ _ _ _ => ⟨_, rfl⟩⟩
    cases h
    rw [pow_zero, Nat.mod_one, zero_nsmul, add_zero]
    exact ha
  | succ n ih =>
    intro i acc run A R ha hr
    have hbit : k / 2 ^ i % 2 ^ (n + 1) = (if k.testBit i then 1 else 0) + 2 * (k / 2 ^ (i + 1) % 2 ^ n) := by
      have e : (if k.testBit i then 1 else 0) = k / 2 ^ i % 2 := by
        rw [Nat.testBit_eq_decide_div_mod_eq]
        have := Nat.mod_two_eq_zero_or_one (k / 2 ^ i)
        rcases this with h | h <;> simp [h]
      rw [e, pow_succ', Nat.mod_mul, Nat.div_div_eq_div_mul, ← pow_succ]
    -- the accumulator of the next turn
    have hacc : ∀ a, (if k.testBit i then pointAdd c acc run else some acc) = some a →
        Shows c a (A + (if k.testBit i then 1 else 0) • R) := by
      intro a h
      split at h
      · next hb =>
        rw [if_pos hb, one_nsmul]
        rcases pointAdd_shows hc ha hr with ⟨r, h1, h2⟩ | ⟨h1, -⟩ <;> rw [h1] at h <;> cases h
        exact h2
      · next hb =>
        cases h
        rw [if_neg hb, zero_nsmul, add_zero]
        exact ha
    have hrun : ∀ b, pointAdd c run run = some b → Shows c b (R + R) := by
      intro b h
      rcases pointAdd_shows hc hr hr with ⟨r, h1, h2⟩ | ⟨h1, -⟩ <;> rw [h1] at h <;> cases h
      exact h2
    refine ⟨fun r h => ?_, fun N hN hA hR => ?_⟩
    · unfold scan at h
      split at h
      · cases h
      · next a h1 =>
        split at h
        · cases h
        · next b h2 =>
          have := (ih (i + 1) a b _ _ (hacc a h1) (hrun b h2)).1 r h
          rw [hbit, add_nsmul, ← add_assoc, mul_comm, mul_nsmul', two_nsmul]
          exact this
    · have hdbl : ∃ b, pointAdd c run run = some b := by
        rcases pointAdd_shows hc hr hr with ⟨r, h1, -⟩ | ⟨-, -, h2, h3⟩
        · exact ⟨r, h1⟩
        · exact absurd (double_ne_zero hN hR h3) h2
      have hadd : ∃ a, (if k.testBit i then pointAdd c acc run else some acc) = some a := by
        split
        · rcases pointAdd_shows hc ha hr with ⟨r, h1, -⟩ | ⟨-, -, h2, h3⟩
          · exact ⟨r, h1⟩
          · exact absurd (double_ne_zero hN hA h3) h2
        · exact ⟨acc, rfl⟩
      obtain ⟨a, h1⟩ := hadd
      obtain ⟨b, h2⟩ := hdbl
      unfold scan
      simp only [h1, h2]
      refine (ih (i + 1) a b _ _ (hacc a h1) (hrun b h2)).2 N hN ?_ ?_
      · rw [nsmul_add, hA, zero_add, nsmul_left_comm, hR, nsmul_zero]
      · rw [nsmul_add, hR, add_zero]

/-- ScalarMult(k, P) (R459, R461 (b)) for k below 2^256 on a shown point: an answer shows k·P, and there is one where an odd
number annihilates P. -/
theorem scalarMult_shows {c : Curve} (hc : curveOk c) [Fact c.p.Prime] {k : Nat} (hk : k < 2 ^ 256) {p : Point}
    {P : (groupCurve c).Point} (hp : Shows c p P) :
    (∀ r, scalarMult c k p = some r → Shows c r (k • P)) ∧
      (∀ N : Nat, N % 2 = 1 → N • P = 0 → ∃ r, scalarMult c k p = some r) := by
  have h := scan_shows hc k 256 0 .identity p 0 P trivial hp
  rw [pow_zero, Nat.div_one, Nat.mod_eq_of_lt hk, zero_add] at h
  exact ⟨h.1, fun N hN hP => h.2 N hN (nsmul_zero N) hP⟩

/-- The base point of a curve that meets R9 shows a point G of the group with n·G = 0, n being odd (R9, R450). -/
theorem exists_base {c : Curve} (hc : curveOk c) [Fact c.p.Prime] :
    ∃ G, Shows c (basePoint c) G ∧ c.n • G = 0 ∧ c.n % 2 = 1 ∧ c.n < 2 ^ 256 := by
  obtain ⟨-, -, -, -, -, -, hx, hy, hon, hn, h3, hl, ho⟩ := id hc
  obtain ⟨G, hG⟩ := exists_shows hc (p := basePoint c) (by simp [basePoint, Point.inRange, hx, hy]) hon
  have hodd : c.n % 2 = 1 := by rcases hn.eq_two_or_odd with h | h <;> omega
  have hlt : c.n < 2 ^ 256 := by
    have : c.n - 1 < 2 ^ 256 := hl
    omega
  refine ⟨G, hG, ?_, hodd, hlt⟩
  have h := (scalarMult_shows hc hlt hG).1 _ ho
  cases hz : c.n • G with
  | zero => rfl
  | some X Y h' => rw [hz] at h; exact h.elim

end Sys2Proof.Machine
end

