-- ==== Sys2Proof/Laws/PerInstr.lean ====
section
/-! SUPPORT. Per command: its encoding has its row's opcode and 0 in every field that the row reserves (30_encoding.md R302,
R303). -/

namespace Sys2Proof

/-- The fields of an assembled word are the fields it was assembled from (R300). -/
theorem fields_assemble (opc : Nat) (rd ra rb rc : Reg) (aux : Fin 16) (h : opc < 256) :
    opcField (assemble opc rd ra rb rc aux) = opc ∧ rdField (assemble opc rd ra rb rc aux) = rd ∧
      raField (assemble opc rd ra rb rc aux) = ra ∧ rbField (assemble opc rd ra rb rc aux) = rb ∧
      rcField (assemble opc rd ra rb rc aux) = rc ∧ auxField (assemble opc rd ra rb rc aux) = aux := by
  have h1 := rd.isLt
  have h2 := ra.isLt
  have h3 := rb.isLt
  have h4 := rc.isLt
  have h5 := aux.isLt
  have key : (assemble opc rd ra rb rc aux).toNat =
      opc + rd.val * 2 ^ 8 + ra.val * 2 ^ 13 + rb.val * 2 ^ 18 + rc.val * 2 ^ 23 + aux.val * 2 ^ 28 := by
    simp only [assemble, BitVec.toNat_ofNat]
    apply Nat.mod_eq_of_lt
    omega
  refine ⟨?_, ?_, ?_, ?_, ?_, ?_⟩ <;>
    simp only [opcField, rdField, raField, rbField, rcField, auxField, key, Fin.ext_iff] <;> omega

namespace Laws

/-- A row of the opcode map: its opcode, and which fields it uses (R302). -/
structure Row where
  /-- OPC -/
  opc : Nat
  /-- RD is used -/
  rd : Bool
  /-- RA is used -/
  ra : Bool
  /-- RB is used -/
  rb : Bool
  /-- RC is used -/
  rc : Bool
  /-- AUX is used -/
  aux : Bool

/-- The opcode map of R302, row by row, as its table marks the fields. -/
def rowOf : Instr → Row
  | .nop => ⟨0x00, false, false, false, false, false⟩
  | .montMul _ _ _ _ => ⟨0x01, true, true, true, true, false⟩
  | .modMul _ _ _ _ => ⟨0x02, true, true, true, true, false⟩
  | .modExp _ _ _ _ => ⟨0x03, true, true, true, true, false⟩
  | .modInv _ _ _ => ⟨0x08, true, true, false, true, false⟩
  | .ecAdd _ _ _ => ⟨0x10, true, true, true, false, false⟩
  | .ecDbl _ _ => ⟨0x11, true, true, false, false, false⟩
  | .ecSmul _ _ _ => ⟨0x12, true, true, true, false, false⟩
  | .ecOnCurve _ _ => ⟨0x13, true, true, false, false, false⟩
  | .egKeygen _ _ => ⟨0x18, true, false, true, false, false⟩
  | .egEnc _ _ _ _ => ⟨0x19, true, true, true, true, false⟩
  | .egDec _ _ _ _ => ⟨0x1A, true, true, true, true, false⟩
  | .rsaPrimeTest _ _ _ => ⟨0x20, true, true, false, false, true⟩
  | .rsaGenPrime _ _ => ⟨0x21, true, true, false, false, false⟩
  | .rsaKeygen _ _ _ _ => ⟨0x22, true, true, true, true, false⟩
  | .rsaSign _ _ => ⟨0x23, false, true, true, false, false⟩
  | .rsaVerify _ _ _ => ⟨0x24, true, true, true, false, false⟩
  | .salsaQr => ⟨0x30, false, false, false, false, false⟩
  | .salsaBlock => ⟨0x31, false, false, false, false, false⟩
  | .salsaKs => ⟨0x32, false, false, false, false, false⟩
  | .salsaXor => ⟨0x33, false, false, false, false, false⟩
  | .ofbEnc => ⟨0x38, false, false, false, false, false⟩
  | .ofbDec => ⟨0x39, false, false, false, false, false⟩

namespace EncodesOwnRow

/-- The encoding of a command has its row's opcode, and 0 in every field its row reserves (R302, R303). -/
def Statement (i : Instr) : Prop :=
  opcField (encode i) = (rowOf i).opc ∧
    ((rowOf i).rd = false → rdField (encode i) = 0) ∧ ((rowOf i).ra = false → raField (encode i) = 0) ∧
    ((rowOf i).rb = false → rbField (encode i) = 0) ∧ ((rowOf i).rc = false → rcField (encode i) = 0) ∧
    ((rowOf i).aux = false → auxField (encode i) = 0)

theorem nop : Statement .nop := by simp [Statement, rowOf, encode, fields_assemble]
theorem montMul (rd ra rb rc : Reg) : Statement (.montMul rd ra rb rc) := by simp [Statement, rowOf, encode, fields_assemble]
theorem modMul (rd ra rb rc : Reg) : Statement (.modMul rd ra rb rc) := by simp [Statement, rowOf, encode, fields_assemble]
theorem modExp (rd ra rb rc : Reg) : Statement (.modExp rd ra rb rc) := by simp [Statement, rowOf, encode, fields_assemble]
theorem modInv (rd ra rc : Reg) : Statement (.modInv rd ra rc) := by simp [Statement, rowOf, encode, fields_assemble]
theorem ecAdd (rd ra rb : Reg) : Statement (.ecAdd rd ra rb) := by simp [Statement, rowOf, encode, fields_assemble]
theorem ecDbl (rd ra : Reg) : Statement (.ecDbl rd ra) := by simp [Statement, rowOf, encode, fields_assemble]
theorem ecSmul (rd ra rb : Reg) : Statement (.ecSmul rd ra rb) := by simp [Statement, rowOf, encode, fields_assemble]
theorem ecOnCurve (rd ra : Reg) : Statement (.ecOnCurve rd ra) := by simp [Statement, rowOf, encode, fields_assemble]
theorem egKeygen (rd rb : Reg) : Statement (.egKeygen rd rb) := by simp [Statement, rowOf, encode, fields_assemble]
theorem egEnc (rd ra rb rc : Reg) : Statement (.egEnc rd ra rb rc) := by simp [Statement, rowOf, encode, fields_assemble]
theorem egDec (rd ra rb rc : Reg) : Statement (.egDec rd ra rb rc) := by simp [Statement, rowOf, encode, fields_assemble]
theorem rsaPrimeTest (rd ra : Reg) (aux : Fin 16) : Statement (.rsaPrimeTest rd ra aux) := by simp [Statement, rowOf, encode, fields_assemble]
theorem rsaGenPrime (rd ra : Reg) : Statement (.rsaGenPrime rd ra) := by simp [Statement, rowOf, encode, fields_assemble]
theorem rsaKeygen (rd ra rb rc : Reg) : Statement (.rsaKeygen rd ra rb rc) := by simp [Statement, rowOf, encode, fields_assemble]
theorem rsaSign (ra rb : Reg) : Statement (.rsaSign ra rb) := by simp [Statement, rowOf, encode, fields_assemble]
theorem rsaVerify (rd ra rb : Reg) : Statement (.rsaVerify rd ra rb) := by simp [Statement, rowOf, encode, fields_assemble]
theorem salsaQr : Statement .salsaQr := by simp [Statement, rowOf, encode, fields_assemble]
theorem salsaBlock : Statement .salsaBlock := by simp [Statement, rowOf, encode, fields_assemble]
theorem salsaKs : Statement .salsaKs := by simp [Statement, rowOf, encode, fields_assemble]
theorem salsaXor : Statement .salsaXor := by simp [Statement, rowOf, encode, fields_assemble]
theorem ofbEnc : Statement .ofbEnc := by simp [Statement, rowOf, encode, fields_assemble]
theorem ofbDec : Statement .ofbDec := by simp [Statement, rowOf, encode, fields_assemble]

end EncodesOwnRow
end Laws
end Sys2Proof
end

