-- ==== Sys2Proof/Tests/Slice0.lean ====
section
/-! SUPPORT. Tests: ill-formed terms refused, words written out by hand, one step per command with the expected values of
95_test_vectors.md, and for each obligation that has hypotheses a state that meets them all (`witness_…`). -/

namespace Sys2Proof.Tests

open Sys2Proof Sys2Proof.Machine

-- One theorem after the other: each `decide +kernel` waits for those before it, and each that waits would hold a thread.
set_option Elab.async false

/-! ### Helpers -/

/-- The state after reset in the test configuration CFG-T of 95_test_vectors.md. -/
def toy : State := { State.reset with cfg := Config.test }

/-- A state with its first registers x0, x1, … written. -/
def loadFrom (s : State) : Nat → List Nat → State
  | _, [] => s
  | i, v :: vs => loadFrom (s.setReg ⟨i % 32, Nat.mod_lt _ (by decide)⟩ v) (i + 1) vs

/-- CFG-T with x0, x1, … written. -/
def withRegs (vs : List Nat) : State := loadFrom toy 0 vs

/-- A state with a byte string in DMEM. -/
def put (s : State) (a : Nat) (bs : List Byte) : State := { s with dmem := s.dmem.writeBytes a bs }

/-- A state whose random source is about to give these answers. -/
def drawing (s : State) (answers : List Nat) : State := { s with rng := ⟨answers, 0⟩ }

/-- A state that holds the accepted command word. -/
def holding (s : State) (w : Word) : State := s.accept w

/-- The state a step leads to, if it leads to one. -/
def nextOf (o : Host.Outcome State Fault Refusal) : Option State :=
  match o with
  | .next t => some t
  | .fault _ => none
  | .refused _ => none

/-- ERRCODE and registers of the next state. -/
def regsAfter (o : Host.Outcome State Fault Refusal) (rs : List Reg) : Option (BitVec 8 × List Nat) :=
  (nextOf o).map fun t => (t.errcode, rs.map t.reg)

/-- ERRCODE, LEN_D and the bytes from an offset on, in the next state. -/
def bytesAfter (o : Host.Outcome State Fault Refusal) (a n : Nat) : Option (BitVec 8 × Word × List (Option Byte)) :=
  (nextOf o).map fun t => (t.errcode, t.desc.lenD, (List.range n).map fun i => t.dmem.read (a + i))

/-- ERRCODE of the next state, and whether UNWRITTEN_READ is recorded there. -/
def codeAfter (o : Host.Outcome State Fault Refusal) : Option (BitVec 8 × Bool) :=
  (nextOf o).map fun t => (t.errcode, t.unwrittenRead)

/-- Bytes from numbers. -/
def bytes (ns : List Nat) : List Byte := ns.map (BitVec.ofNat 8)

/-- A state with the descriptor registers ADDR_A, LEN_A, ADDR_B, LEN_B and ADDR_D set. -/
def pointing (s : State) (addrA lenA addrB lenB addrD : Word) : State :=
  { s with desc := { s.desc with addrA := addrA, lenA := lenA, addrB := addrB, lenB := lenB, addrD := addrD } }

/-- The key 00..1f at 0, the nonce a0..a7 at 32, and `data` at 64, with the output at `d`. -/
def streaming (data : List Byte) (d : Word) : State :=
  let s := put (put (put toy 0 (bytes (List.range 32))) 32 (bytes (List.range' 0xa0 8))) 64 data
  { s with desc := { s.desc with addrA := 64#32, lenA := BitVec.ofNat 32 data.length, addrK := 0#32, lenK := 32#32,
                                 addrN := 32#32, lenN := 8#32, addrD := d } }

/-- The key 80 ‖ 31 zero bytes at 0 and the nonce of zero bytes at 32, with a length and an output offset. -/
def keyed0 (len d : Word) : State :=
  let s := put toy 0 (bytes (0x80 :: List.replicate 39 0))
  { s with desc := { s.desc with lenA := len, addrK := 0#32, lenK := 32#32, addrN := 32#32, lenN := 8#32, addrD := d } }

/-- LEN_K = 31. -/
def badLength (s : State) : State := { s with desc := { s.desc with lenK := 31#32 } }

/-! ### Ill-formed terms -/

theorem test_ill_formed_ecAdd : (Instr.ecAdd 1 0 0).wellFormed = false ∧ (Instr.ecAdd 0 1 0).wellFormed = false ∧
    (Instr.ecAdd 0 0 1).wellFormed = false ∧ (Instr.ecAdd 4 0 2).wellFormed = true := by decide

theorem test_ill_formed_ecDbl : (Instr.ecDbl 31 0).wellFormed = false ∧ (Instr.ecDbl 0 31).wellFormed = false := by decide

theorem test_ill_formed_ecSmul : (Instr.ecSmul 5 0 0).wellFormed = false ∧ (Instr.ecSmul 4 0 1).wellFormed = false ∧
    (Instr.ecSmul 4 7 0).wellFormed = true := by decide

theorem test_ill_formed_ecOnCurve : (Instr.ecOnCurve 6 5).wellFormed = false ∧
    (Instr.ecOnCurve 5 6).wellFormed = true := by decide

theorem test_ill_formed_egKeygen : (Instr.egKeygen 0 3).wellFormed = false ∧ (Instr.egKeygen 2 2).wellFormed = false ∧
    (Instr.egKeygen 3 2).wellFormed = false ∧ (Instr.egKeygen 1 2).wellFormed = true := by decide

theorem test_ill_formed_egEnc : (Instr.egEnc 7 2 4 5).wellFormed = false ∧ (Instr.egEnc 6 3 4 5).wellFormed = false ∧
    (Instr.egEnc 6 2 4 6).wellFormed = false ∧ (Instr.egEnc 6 2 4 7).wellFormed = false := by decide

theorem test_ill_formed_egDec : (Instr.egDec 8 0 7 5).wellFormed = false ∧ (Instr.egDec 7 1 6 5).wellFormed = true := by
  decide

theorem test_ill_formed_rsaKeygen : (Instr.rsaKeygen 0 1 0 3).wellFormed = false ∧
    (Instr.rsaKeygen 0 1 2 0).wellFormed = false ∧ (Instr.rsaKeygen 0 1 1 1).wellFormed = false := by decide

/-- R602: the ill-formed word 0x00040412 with x1 not written gives ILLEGAL_OPERAND and no UNWRITTEN_READ (V-ENC3). -/
theorem test_illegal_operand_reads_nothing : codeAfter (step (holding toy 0x00040412#32)) = some (0x02#8, false) := by
  decide +kernel

theorem test_ill_formed_sizes :
    ¬ sizesOk { Config.test with opw := 260 } ∧ ¬ sizesOk { Config.test with opw := 224 } ∧
    ¬ sizesOk { Config.test with opw := 32800 } ∧ ¬ sizesOk { Config.test with dmemBytes := 1000 } ∧
    ¬ sizesOk { Config.test with dmemBytes := 0 } ∧ ¬ sizesOk { Config.test with dmemBytes := 67109888 } ∧
    ¬ sizesOk { Config.test with curve := { Config.toy97 with p := 2 ^ 256 + 1 } } := by
  decide +kernel

theorem test_ill_formed_field :
    ¬ curveOk { Config.toy97 with p := 91 } ∧ ¬ curveOk { Config.toy97 with p := 2 } ∧
    ¬ curveOk { Config.toy97 with p := 3 } := by
  decide +kernel

theorem test_ill_formed_coefficients :
    ¬ curveOk { Config.toy97 with a := 97 } ∧ ¬ curveOk { Config.toy97 with b := 97 } ∧
    ¬ curveOk { Config.toy97 with a := 0, b := 0 } := by
  decide +kernel

theorem test_ill_formed_base_point :
    ¬ curveOk { Config.toy97 with gx := 100 } ∧ ¬ curveOk { Config.toy97 with gy := 109 } ∧
    ¬ curveOk { Config.toy97 with gy := 13 } := by
  decide +kernel

theorem test_ill_formed_order :
    ¬ curveOk { Config.toy97 with n := 100 } ∧ ¬ curveOk { Config.toy97 with n := 2 } ∧
    ¬ curveOk { Config.toy97 with n := 103 } := by
  decide +kernel

theorem test_ill_formed_order_too_large : ¬ curveOk { Config.toy97 with n := 2 ^ 256 + 1 } := by
  intro h
  have hn : (2 ^ 256 + 1 : Nat) - 1 < 2 ^ 256 := h.2.2.2.2.2.2.2.2.2.2.2.1
  omega

/-- R9, R622: an ill-formed configuration is refused before any step. -/
theorem test_step_refuses_ill_formed_configuration :
    step { toy with cfg := { Config.test with opw := 100 } } = .refused .illFormedConfiguration := by
  rfl

/-! ### Decoding: words written out from R300, R302 and R305 (V-ENC1) -/

theorem test_word_nop : decode 0x00000000#32 = .ok .nop ∧ encode .nop = 0x00000000#32 := by decide
theorem test_word_montMul : decode 0x01040301#32 = .ok (.montMul 3 0 1 2) ∧
    decode 0x0FFFFF01#32 = .ok (.montMul 31 31 31 31) ∧ encode (.montMul 3 0 1 2) = 0x01040301#32 := by decide
theorem test_word_modMul : decode 0x01040302#32 = .ok (.modMul 3 0 1 2) ∧
    encode (.modMul 3 0 1 2) = 0x01040302#32 := by decide
theorem test_word_modExp : decode 0x01040303#32 = .ok (.modExp 3 0 1 2) ∧
    encode (.modExp 3 0 1 2) = 0x01040303#32 := by decide
theorem test_word_modInv : decode 0x01000308#32 = .ok (.modInv 3 0 2) ∧
    encode (.modInv 3 0 2) = 0x01000308#32 := by decide
theorem test_word_ecAdd : decode 0x00080410#32 = .ok (.ecAdd 4 0 2) ∧
    encode (.ecAdd 4 0 2) = 0x00080410#32 := by decide
theorem test_word_ecDbl : decode 0x00000211#32 = .ok (.ecDbl 2 0) ∧ encode (.ecDbl 2 0) = 0x00000211#32 := by decide
theorem test_word_ecSmul : decode 0x0000C412#32 = .ok (.ecSmul 4 6 0) ∧
    encode (.ecSmul 4 6 0) = 0x0000C412#32 := by decide
theorem test_word_ecOnCurve : decode 0x00008613#32 = .ok (.ecOnCurve 6 4) ∧
    encode (.ecOnCurve 6 4) = 0x00008613#32 := by decide
theorem test_word_egKeygen : decode 0x00080018#32 = .ok (.egKeygen 0 2) ∧
    encode (.egKeygen 0 2) = 0x00080018#32 := by decide
theorem test_word_egEnc : decode 0x02904619#32 = .ok (.egEnc 6 2 4 5) ∧
    encode (.egEnc 6 2 4 5) = 0x02904619#32 := by decide
theorem test_word_egDec : decode 0x0298081A#32 = .ok (.egDec 8 0 6 5) ∧
    encode (.egDec 8 0 6 5) = 0x0298081A#32 := by decide
theorem test_word_rsaPrimeTest : decode 0x00000120#32 = .ok (.rsaPrimeTest 1 0 0) ∧
    decode 0x30000120#32 = .ok (.rsaPrimeTest 1 0 3) ∧ decode 0xF003FF20#32 = .ok (.rsaPrimeTest 31 31 15) ∧
    encode (.rsaPrimeTest 1 0 3) = 0x30000120#32 := by decide
theorem test_word_rsaGenPrime : decode 0x00000121#32 = .ok (.rsaGenPrime 1 0) ∧
    encode (.rsaGenPrime 1 0) = 0x00000121#32 := by decide
theorem test_word_rsaKeygen : decode 0x01882022#32 = .ok (.rsaKeygen 0 1 2 3) ∧
    encode (.rsaKeygen 0 1 2 3) = 0x01882022#32 := by decide
theorem test_word_rsaSign : decode 0x00040023#32 = .ok (.rsaSign 0 1) ∧
    encode (.rsaSign 0 1) = 0x00040023#32 := by decide
theorem test_word_rsaVerify : decode 0x00080324#32 = .ok (.rsaVerify 3 0 2) ∧
    encode (.rsaVerify 3 0 2) = 0x00080324#32 := by decide
theorem test_word_salsaQr : decode 0x00000030#32 = .ok .salsaQr ∧ encode .salsaQr = 0x00000030#32 := by decide
theorem test_word_salsaBlock : decode 0x00000031#32 = .ok .salsaBlock ∧ encode .salsaBlock = 0x00000031#32 := by decide
theorem test_word_salsaKs : decode 0x00000032#32 = .ok .salsaKs ∧ encode .salsaKs = 0x00000032#32 := by decide
theorem test_word_salsaXor : decode 0x00000033#32 = .ok .salsaXor ∧ encode .salsaXor = 0x00000033#32 := by decide
theorem test_word_ofbEnc : decode 0x00000038#32 = .ok .ofbEnc ∧ encode .ofbEnc = 0x00000038#32 := by decide
theorem test_word_ofbDec : decode 0x00000039#32 = .ok .ofbDec ∧ encode .ofbDec = 0x00000039#32 := by decide

/-- V-ENC2: words that are no command, OPC outside the map. -/
theorem test_unassigned_opcodes : decode 0x00000004#32 = .error .unassignedOpcode ∧
    decode 0x000000FF#32 = .error .unassignedOpcode ∧ decode 0xFFFFFFFF#32 = .error .unassignedOpcode ∧
    decode 0x0000000F#32 = .error .unassignedOpcode ∧ decode 0x0000003A#32 = .error .unassignedOpcode := by decide

/-- V-ENC2: words that are no command, a reserved field not 0. -/
theorem test_reserved_fields : decode 0x00000100#32 = .error .reservedField ∧
    decode 0x00040008#32 = .error .reservedField ∧ decode 0x10000001#32 = .error .reservedField ∧
    decode 0x00000138#32 = .error .reservedField ∧ decode 0x30000023#32 = .error .reservedField := by decide

/-- The host's reading of a table row, and a word that is no command. -/
theorem test_table_words : decodeTableWord 32 0x01040301 = some (.montMul 3 0 1 2) ∧
    decodeTableWord 32 0x00000004 = none := by decide

/-- V-ENC2, V-NOP1: STATUS after the step of a word that is no command, and of NOP, placed as the first after reset. -/
theorem test_status_after_first_step :
    (nextOf (step (State.reset.withFetchWord 32 0x00000000))).map (fun t => (t.status.toWord, t.errcode, t.cmd)) =
      some (0x00000002#32, 0x00#8, 0x00000000#32) ∧
    (nextOf (step (State.reset.withFetchWord 32 0x00000100))).map (fun t => (t.status.toWord, t.errcode)) =
      some (0x00000006#32, 0x01#8) := by
  decide +kernel

/-! ### One step of each command -/

/-- V-NOP1: BUSY from acceptance to the step; irq with CTRL.IE from the completion. -/
theorem test_nop : (holding toy 0#32).status.toWord = 0x00000001#32 ∧
    (nextOf (exec .nop { holding toy 0#32 with ie := true })).map State.irq = some true := by decide

/-- V-MM1: OPW = 256, 5·7 mod 97 gives 61; the errors of an even modulus and of a ≥ m. -/
theorem test_montMul : regsAfter (exec (.montMul 3 0 1 2) (withRegs [5, 7, 97])) [3] = some (0x00#8, [61]) ∧
    regsAfter (exec (.montMul 2 0 1 2) (withRegs [0, 0, 1])) [2] = some (0x00#8, [0]) ∧
    regsAfter (exec (.montMul 3 0 1 2) (withRegs [5, 7, 96])) [3] = some (0x05#8, [0]) ∧
    regsAfter (exec (.montMul 3 0 1 2) (withRegs [97, 1, 97])) [3] = some (0x05#8, [0]) ∧
    regsAfter (exec (.montMul 3 0 1 2) (withRegs [1, 98, 97])) [3] = some (0x05#8, [0]) := by decide +kernel

/-- V-MM1: OPW = 2048, 5·7 mod 97 gives 1, and 100·200 mod 3233 gives 162. -/
theorem test_montMul_default :
    regsAfter (exec (.montMul 3 0 1 2) (loadFrom State.reset 0 [5, 7, 97])) [3] = some (0x00#8, [1]) ∧
    regsAfter (exec (.montMul 3 0 1 2) (loadFrom State.reset 0 [100, 200, 3233])) [3] = some (0x00#8, [162]) := by
  decide +kernel

/-- V-MM2. -/
theorem test_modMul : regsAfter (exec (.modMul 3 0 1 2) (withRegs [3233, 3, 97])) [3] = some (0x00#8, [96]) ∧
    regsAfter (exec (.modMul 0 0 1 2) (withRegs [200, 300, 100])) [0] = some (0x00#8, [0]) ∧
    regsAfter (exec (.modMul 3 0 1 2) (withRegs [5, 7, 0])) [3] = some (0x05#8, [0]) := by decide +kernel

/-- V-MM2: the product of the largest operands is not truncated. -/
theorem test_modMul_wide :
    regsAfter (exec (.modMul 3 0 1 2) (loadFrom State.reset 0 [2 ^ 2048 - 1, 2 ^ 2048 - 1, 1000003])) [3] =
      some (0x00#8, [62744]) := by decide +kernel

/-- V-MM3. -/
theorem test_modExp : regsAfter (exec (.modExp 3 0 1 2) (withRegs [4, 13, 497])) [3] = some (0x00#8, [445]) ∧
    regsAfter (exec (.modExp 3 0 1 2) (withRegs [0, 0, 5])) [3] = some (0x00#8, [1]) ∧
    regsAfter (exec (.modExp 3 0 1 2) (withRegs [5, 0, 1])) [3] = some (0x00#8, [0]) ∧
    regsAfter (exec (.modExp 3 0 1 2) (withRegs [65, 17, 3233])) [3] = some (0x00#8, [2790]) ∧
    regsAfter (exec (.modExp 3 0 1 2) (withRegs [5, 3, 0])) [3] = some (0x05#8, [0]) := by decide +kernel

/-- V-MM3: the largest exponent of OPW = 2048. -/
theorem test_modExp_wide :
    regsAfter (exec (.modExp 3 0 1 2) (loadFrom State.reset 0 [3, 2 ^ 2048 - 1, 7])) [3] = some (0x00#8, [6]) := by
  decide +kernel

/-- V-INV1. -/
theorem test_modInv : regsAfter (exec (.modInv 2 0 1) (withRegs [17, 3120])) [2] = some (0x00#8, [2753]) ∧
    regsAfter (exec (.modInv 2 0 1) (withRegs [3137, 3120])) [2] = some (0x00#8, [2753]) ∧
    regsAfter (exec (.modInv 2 0 1) (withRegs [65537, 54720])) [2] = some (0x00#8, [37313]) ∧
    regsAfter (exec (.modInv 2 0 1) (withRegs [6, 7])) [2] = some (0x00#8, [6]) ∧
    regsAfter (exec (.modInv 2 0 1) (withRegs [5, 1])) [2] = some (0x00#8, [0]) := by decide +kernel

/-- V-INV1: the errors. -/
theorem test_modInv_errors : regsAfter (exec (.modInv 2 0 1) (withRegs [0, 7])) [2] = some (0x06#8, [0]) ∧
    regsAfter (exec (.modInv 2 0 1) (withRegs [6, 9])) [2] = some (0x06#8, [0]) ∧
    regsAfter (exec (.modInv 2 0 1) (withRegs [4, 8])) [2] = some (0x06#8, [0]) ∧
    regsAfter (exec (.modInv 2 0 1) (withRegs [3, 0])) [2] = some (0x05#8, [0]) := by decide +kernel

/-- V-EC1. -/
theorem test_ecOnCurve : regsAfter (exec (.ecOnCurve 6 0) (withRegs [3, 12])) [6] = some (0x00#8, [1]) ∧
    regsAfter (exec (.ecOnCurve 6 0) { toy with tag := 1#16 }) [6] = some (0x00#8, [1]) ∧
    regsAfter (exec (.ecOnCurve 6 0) (withRegs [1, 1])) [6] = some (0x00#8, [0]) ∧
    regsAfter (exec (.ecOnCurve 6 0) (withRegs [0, 0])) [6] = some (0x00#8, [0]) ∧
    regsAfter (exec (.ecOnCurve 6 0) (withRegs [97, 1])) [6] = some (0x05#8, [0]) := by decide +kernel

/-- V-EC2: secant, tangent, off the curve, coordinate out of range. -/
theorem test_ecAdd : regsAfter (exec (.ecAdd 4 0 2) (withRegs [3, 12, 64, 80])) [4, 5] = some (0x00#8, [18, 81]) ∧
    regsAfter (exec (.ecAdd 4 0 2) (withRegs [3, 12, 3, 12])) [4, 5] = some (0x00#8, [64, 80]) ∧
    regsAfter (exec (.ecAdd 4 0 2) (withRegs [1, 1, 2, 2])) [4, 5] = some (0x00#8, [95, 2]) ∧
    regsAfter (exec (.ecAdd 4 0 2) (withRegs [3, 97, 3, 12])) [4, 5] = some (0x05#8, [0, 0]) := by decide +kernel

/-- V-EC2: the identity as an operand, and the vertical line, whose sum shows as the tag of pair 2 with both coordinates
0. -/
theorem test_ecAdd_identity :
    (nextOf (exec (.ecAdd 4 0 2) { withRegs [3, 12] with tag := 2#16 })).map (fun t => (t.readPoint 2, t.unwrittenRead)) =
      some (.affine 3 12, false) ∧
    (nextOf (exec (.ecAdd 4 0 2) (withRegs [3, 12, 3, 85, 7, 7]))).map (fun t => (t.tag, t.reg 4, t.reg 5)) =
      some (4#16, 0, 0) := by decide +kernel

/-- V-EC3. -/
theorem test_ecDbl : regsAfter (exec (.ecDbl 2 0) (withRegs [3, 12])) [2, 3] = some (0x00#8, [64, 80]) ∧
    regsAfter (exec (.ecDbl 2 0) (withRegs [5, 0])) [2, 3] = some (0x06#8, [0, 0]) ∧
    (nextOf (exec (.ecDbl 2 0) { toy with tag := 1#16 })).map (fun t => t.tag) = some 3#16 := by decide +kernel

/-- V-EC3: 2·G on P-256. -/
theorem test_ecDbl_default :
    regsAfter (exec (.ecDbl 2 0) (loadFrom State.reset 0 [Config.p256.gx, Config.p256.gy])) [2, 3] =
      some (0x00#8, [0x7cf27b188d034f7e8a52380304b51ac3c08969e277f21b35a60b48fc47669978,
        0x07775510db8ed040293d9ac69f7430dbba7dade63ce982299e04b79d227873d1]) := by decide +kernel

/-- V-EC5, V-EC6. -/
theorem test_ecSmul : regsAfter (exec (.ecSmul 4 2 0) (withRegs [3, 12, 10])) [4, 5] = some (0x00#8, [78, 2]) ∧
    regsAfter (exec (.ecSmul 4 2 0) (withRegs [3, 12, 2 ^ 256 - 1])) [4, 5] = some (0x00#8, [28, 87]) ∧
    regsAfter (exec (.ecSmul 4 2 0) (withRegs [1, 1, 3])) [4, 5] = some (0x00#8, [63, 28]) ∧
    regsAfter (exec (.ecSmul 4 2 0) (withRegs [3, 12, 2 ^ 256])) [4, 5] = some (0x05#8, [0, 0]) := by decide +kernel

/-- V-EC5: the order of G, and k = 0, give the identity. -/
theorem test_ecSmul_identity :
    (nextOf (exec (.ecSmul 4 2 0) (withRegs [3, 12, 101]))).map (fun t => t.readPoint 2) = some .identity ∧
    (nextOf (exec (.ecSmul 4 2 0) (withRegs [3, 12, 0]))).map (fun t => t.readPoint 2) = some .identity := by
  decide +kernel

/-- V-EG1. -/
theorem test_egKeygen : regsAfter (exec (.egKeygen 0 2) (drawing toy [7])) [0, 2, 3] = some (0x00#8, [7, 10, 8]) ∧
    regsAfter (exec (.egKeygen 0 2) (drawing toy [100])) [0, 2, 3] = some (0x00#8, [100, 3, 85]) := by decide +kernel

/-- V-EG2: m = 42 and m = 96. -/
theorem test_egEnc :
    regsAfter (exec (.egEnc 6 2 4 5) (drawing (withRegs [0, 0, 10, 8, 42]) [13])) [6, 7, 5] =
      some (0x00#8, [4, 59, 75]) ∧
    regsAfter (exec (.egEnc 6 2 4 5) (drawing (withRegs [0, 0, 10, 8, 96]) [1])) [6, 7, 5] =
      some (0x00#8, [3, 12, 87]) := by decide +kernel

/-- V-EG2: m = 97 makes no draw; Q = O gives DEGENERATE with the draw consumed. -/
theorem test_egEnc_errors :
    (nextOf (exec (.egEnc 6 2 4 5) (drawing (withRegs [0, 0, 10, 8, 97]) [13]))).map (fun t => (t.errcode, t.rng)) =
      some (0x05#8, ⟨[13], 0⟩) ∧
    (nextOf (exec (.egEnc 6 2 4 5) { drawing (withRegs [0, 0, 10, 8, 42]) [13] with tag := 2#16 })).map
      (fun t => (t.errcode, t.rng, t.written 6)) = some (0x07#8, ⟨[], 1⟩, false) := by decide +kernel

/-- V-EG3. -/
theorem test_egDec : regsAfter (exec (.egDec 8 0 6 5) (withRegs [7, 0, 0, 0, 0, 75, 4, 59])) [8] = some (0x00#8, [42]) ∧
    regsAfter (exec (.egDec 8 0 6 5) (withRegs [7, 0, 0, 0, 0, 87, 3, 12])) [8] = some (0x00#8, [96]) := by
  decide +kernel

/-- V-EG3: the errors. -/
theorem test_egDec_errors :
    regsAfter (exec (.egDec 8 0 6 5) (withRegs [101, 0, 0, 0, 0, 75, 3, 12])) [8] = some (0x07#8, [0]) ∧
    regsAfter (exec (.egDec 8 0 6 5) (withRegs [0, 0, 0, 0, 0, 75, 3, 12])) [8] = some (0x07#8, [0]) ∧
    regsAfter (exec (.egDec 8 0 6 5) (withRegs [7, 0, 0, 0, 0, 97, 4, 59])) [8] = some (0x05#8, [0]) := by decide +kernel

/-- V-RSA1: candidates settled without a draw, and 31. -/
theorem test_rsaPrimeTest :
    regsAfter (exec (.rsaPrimeTest 1 0 0) (withRegs [1])) [1] = some (0x00#8, [0]) ∧
    regsAfter (exec (.rsaPrimeTest 1 0 0) (withRegs [29])) [1] = some (0x00#8, [1]) ∧
    regsAfter (exec (.rsaPrimeTest 1 0 0) (withRegs [561])) [1] = some (0x00#8, [0]) ∧
    regsAfter (exec (.rsaPrimeTest 1 0 0) (drawing (withRegs [31]) [2, 3, 4, 5, 6])) [1] = some (0x00#8, [1]) := by
  decide +kernel

/-- V-RSA1: 1373653 passes two rounds and fails the third, and 1147 fails at the first of five, which ends the draws. -/
theorem test_rsaPrimeTest_rounds :
    regsAfter (exec (.rsaPrimeTest 1 0 2) (drawing (withRegs [1373653]) [2, 3])) [1] = some (0x00#8, [1]) ∧
    regsAfter (exec (.rsaPrimeTest 1 0 3) (drawing (withRegs [1373653]) [2, 3, 5])) [1] = some (0x00#8, [0]) ∧
    (nextOf (exec (.rsaPrimeTest 1 0 0) (drawing (withRegs [1147]) [1145, 2]))).map (fun t => (t.reg 1, t.rng)) =
      some (0, ⟨[2], 1⟩) := by decide +kernel

/-- V-RSA2. -/
theorem test_rsaGenPrime :
    regsAfter (exec (.rsaGenPrime 1 0) (drawing (withRegs [8]) [0x00, 0x65, 2, 3, 4, 5, 6])) [1] =
      some (0x00#8, [229]) ∧
    regsAfter (exec (.rsaGenPrime 1 0) (drawing (withRegs [2]) [1])) [1] = some (0x00#8, [3]) ∧
    regsAfter (exec (.rsaGenPrime 1 0) (withRegs [1])) [1] = some (0x05#8, [0]) ∧
    regsAfter (exec (.rsaGenPrime 1 0) (withRegs [257])) [1] = some (0x05#8, [0]) := by decide +kernel

/-- V-RSA3: bits = 16. -/
theorem test_rsaKeygen :
    regsAfter (exec (.rsaKeygen 0 1 2 3)
      (drawing (withRegs [0, 16]) [0x00, 0x65, 2, 3, 4, 5, 6, 0x3B, 0x71, 2, 3, 4, 5, 6])) [0, 2, 3] =
      some (0x00#8, [55189, 37313, 65537]) := by decide +kernel

/-- V-RSA3: equal primes, 65537 not coprime to φ, and bits = 3. -/
theorem test_rsaKeygen_errors :
    regsAfter (exec (.rsaKeygen 0 1 2 3) (drawing (withRegs [0, 4]) [0, 0])) [0, 2, 3] = some (0x07#8, [0, 0, 0]) ∧
    regsAfter (exec (.rsaKeygen 0 1 2 3)
      (drawing (withRegs [0, 40]) [0x6000F, 2, 3, 4, 5, 6, 0x15, 2, 3, 4, 5, 6])) [0, 2, 3] =
      some (0x06#8, [0, 0, 0]) ∧
    regsAfter (exec (.rsaKeygen 0 1 2 3) (withRegs [0, 3])) [0, 2, 3] = some (0x05#8, [0, 0, 0]) := by decide +kernel

/-- V-RSA4: hash 41 signs to 02 4c. -/
theorem test_rsaSign :
    bytesAfter (exec (.rsaSign 0 1) (pointing (put (withRegs [3233, 2753]) 0 (bytes [0x41])) 0 1 0 0 16)) 16 2 =
      some (0x00#8, 2#32, [some 0x02#8, some 0x4c#8]) := by decide +kernel

/-- V-RSA4, V-RSA7, V-ERR1: the empty hash, n = 0, and a destination region one byte too far. -/
theorem test_rsaSign_corners :
    bytesAfter (exec (.rsaSign 0 1) (pointing (withRegs [3233, 2753]) 0 0 0 0 1022)) 1022 1 =
      some (0x00#8, 0#32, [none]) ∧
    bytesAfter (exec (.rsaSign 0 1) (pointing (withRegs [0, 2753]) 0 0 0 0 1024)) 1024 0 = some (0x05#8, 0#32, []) ∧
    bytesAfter (exec (.rsaSign 0 1) (pointing (withRegs [3233, 2753]) 0 0 0 0 1023)) 1023 0 = some (0x04#8, 0#32, []) := by
  decide +kernel

/-- V-RSA4, V-RSA5: the signature verifies, also with leading zero bytes and above n; another hash does not. -/
theorem test_rsaVerify :
    regsAfter (exec (.rsaVerify 3 0 2) (pointing (put (withRegs [3233, 0, 65537]) 0 (bytes [0x41, 2, 0x4c])) 0 1 1 2 0))
      [3] = some (0x00#8, [1]) ∧
    regsAfter (exec (.rsaVerify 3 0 2)
      (pointing (put (withRegs [3233, 0, 65537]) 0 (bytes [0x41, 0x0c, 0xa1, 2, 0x4c])) 0 1 1 4 0)) [3] =
      some (0x00#8, [1]) ∧
    regsAfter (exec (.rsaVerify 3 0 2) (pointing (put (withRegs [3233, 0, 65537]) 0 (bytes [0x40, 2, 0x4c])) 0 1 1 2 0))
      [3] = some (0x00#8, [0]) := by decide +kernel

/-- V-SQ1, the row of five mixed words. -/
theorem test_quarterRound : quarterRound ⟨0xe7e8c006#32, 0xc4f9417d#32, 0x6479b4b2#32, 0x68c67137#32⟩ =
    ⟨0xe876d72b#32, 0x9361dfd5#32, 0xf1460244#32, 0x948541a3#32⟩ := by decide

/-- V-SQ2. -/
theorem test_salsaQr :
    bytesAfter (exec .salsaQr (pointing (put toy 0 (bytes (1 :: List.replicate 15 0))) 0 0 0 0 100)) 100 16 =
      some (0x00#8, 16#32, (bytes [0x45, 0x81, 0x00, 0x08, 0x80, 0x00, 0x00, 0x00, 0x00, 0x02, 0x01, 0x00, 0x00, 0x00, 0x50,
        0x20]).map some) := by decide +kernel

/-- V-SB1: the input 00 01 … 3f, the output overlapping it. -/
theorem test_salsaBlock :
    bytesAfter (exec .salsaBlock (pointing (put toy 0 (bytes (List.range 64))) 0 0 0 0 60)) 60 8 =
      some (0x00#8, 64#32, (bytes [0x3c, 0x56, 0x1d, 0x32, 0x3c, 0x15, 0xba, 0x1e]).map some) ∧
    bytesAfter (exec .salsaBlock (pointing (put toy 0 (bytes (List.range 64))) 0 0 0 0 60)) 116 8 =
      some (0x00#8, 64#32, (bytes [0x29, 0xc9, 0xf4, 0x0c, 0x81, 0x9a, 0x44, 0xd4]).map some) := by decide +kernel

/-- V-SK1: key 80 ‖ 31 zero bytes and nonce 0; LEN_A = 65: the first bytes, and the last of block 0 with the first of
block 1. -/
theorem test_salsaKs :
    bytesAfter (exec .salsaKs (keyed0 65 100)) 100 4 = some (0x00#8, 65#32, (bytes [0xe3, 0xbe, 0x8f, 0xdd]).map some) ∧
    bytesAfter (exec .salsaKs (keyed0 65 100)) 160 6 =
      some (0x00#8, 65#32, (bytes [0x7e, 0xf1, 0xa1, 0x17, 0x8d]).map some ++ [none]) := by decide +kernel

/-- V-SX3, the row of 65 zero bytes; V-SE1: LEN_K = 31 with ADDR_D out of range. -/
theorem test_salsaXor :
    bytesAfter (exec .salsaXor (streaming (List.replicate 65 0#8) 200)) 261 4 =
      some (0x00#8, 65#32, (bytes [0x04, 0x6d, 0x5a, 0x5e]).map some) ∧
    bytesAfter (exec .salsaXor (badLength (streaming [] 0xFFFFFFFF))) 0 0 = some (0x03#8, 0#32, []) := by decide +kernel

/-- V-ERR1: length-0 regions at DMEM_BYTES pass, and one beyond does not. -/
theorem test_salsaXor_empty : bytesAfter (exec .salsaXor (streaming [] 1024)) 0 0 = some (0x00#8, 0#32, []) ∧
    bytesAfter (exec .salsaXor (streaming [] 1025)) 0 0 = some (0x04#8, 0#32, []) := by decide +kernel

/-- V-OFB2: bytes 60 to 64 over 65 zero bytes. -/
theorem test_ofbEnc :
    bytesAfter (exec .ofbEnc (streaming (List.replicate 65 0#8) 200)) 260 5 =
      some (0x00#8, 65#32, (bytes [0x58, 0x04, 0x6d, 0x5a, 0x77]).map some) := by decide +kernel

/-- V-OFB4, OFB_DEC of the first bytes of the ciphertext, in place: "This". -/
theorem test_ofbDec :
    bytesAfter (exec .ofbDec (streaming (bytes [0x41, 0xa9, 0x08, 0x8d]) 64)) 64 4 =
      some (0x00#8, 4#32, (bytes [0x54, 0x68, 0x69, 0x73]).map some) := by decide +kernel

/-- P6: MOD_INV of a register never written completes, and UNWRITTEN_READ is recorded. -/
theorem test_unwritten_read_is_recorded :
    (nextOf (step (holding (toy.setReg 1 97) 0x00800208#32))).map (fun t => (t.unwrittenRead, t.status.busy)) =
      some (true, false) := by decide +kernel

/-! ### The host interface (V-ERR3) -/

/-- STATUS and the word returned after a host access. -/
def seen (a : HostAccess) (s : State) : Word × Option Word :=
  ((hostAccess a s).status.toWord, (hostAccess a s).readData)

theorem test_unsupported_reads :
    seen (.read 32 0x01C#32) toy = (0x20#32, some 0#32) ∧ seen (.read 32 0x1020#32) toy = (0x20#32, some 0#32) ∧
    seen (.read 32 0x10400#32) toy = (0x20#32, some 0#32) ∧ seen (.read 32 0x10002#32) toy = (0x20#32, some 0#32) ∧
    seen (.read 16 0x018#32) toy = (0x20#32, some 0#32) := by decide

theorem test_caps_and_ignored_writes : seen (.read 32 0x018#32) toy = (0#32, some 0x00010008#32) ∧
    seen (.read 32 0x018#32) State.reset = (0#32, some 0x00400040#32) ∧
    hostAccess (.write 32 0x018#32 0x12345678#32) toy = toy ∧ hostAccess (.write 32 0x008#32 5#32) toy = toy := by decide

theorem test_masked_registers :
    seen (.read 32 0x014#32) (hostAccess (.write 32 0x014#32 0x25#32) toy) = (0#32, some 0x00000005#32) ∧
    seen (.read 32 0x010#32) (hostAccess (.write 32 0x010#32 0xFFFFFFFF#32) toy) = (0#32, some 0x0000FFFF#32) := by decide

theorem test_dmem_window : (hostAccess (.read 32 0x10000#32) toy).unwrittenRead = true ∧
    (hostAccess (.write 32 0x103FC#32 0x11223344#32) toy).dmem =
      [(1020, 0x44#8), (1021, 0x33#8), (1022, 0x22#8), (1023, 0x11#8)] ∧
    seen (.read 32 0x10000#32) (put toy 0 (bytes [1, 2, 3, 4])) = (0#32, some 0x04030201#32) := by decide

/-- P8: while BUSY, an input write is dropped with HAZ, a CMD write with OVR; a soft reset is taken. -/
theorem test_busy_window :
    (hostAccess (.write 32 0x1000#32 3#32) (holding (withRegs [4]) 0x01040303#32)).status.toWord = 0x11#32 ∧
    (hostAccess (.write 32 0x000#32 0x01040403#32) (holding toy 0x01040303#32)).status.toWord = 0x09#32 ∧
    (hostAccess (.write 32 0x000#32 0x01040403#32) (holding toy 0x01040303#32)).cmd = 0x01040303#32 ∧
    (hostAccess (.write 32 0x00C#32 3#32) (holding toy 0x01040303#32)).status.toWord = 0#32 := by decide

/-! ### Witnesses: for each obligation with hypotheses, states and operands that meet them all -/

/-- CFG-T, busy with the word 0x01040301 (MONT_MUL x3, x0, x1, x2) over 5, 7, 97. -/
def busyToy : State := holding (withRegs [5, 7, 97]) 0x01040301#32

/-- A 40-byte string at 0: the key 00..1f and the nonce a0..a7. -/
def key : List Byte := bytes (List.range 32)

/-- See `key`. -/
def nonce : List Byte := bytes (List.range' 0xa0 8)

theorem witness_OnlyItsEncodingDecodesToACommand : decode 0x01040301#32 = .ok (.montMul 3 0 1 2) := by decide

/-- Both sides of UnassignedOpcodesAreNoCommand, at the ends of each range and beside them. -/
theorem witness_UnassignedOpcodesAreNoCommand :
    (∀ n ∈ [0x04, 0x07, 0x09, 0x0F, 0x14, 0x17, 0x1B, 0x1F, 0x25, 0x2F, 0x34, 0x37, 0x3A, 0xFF],
      decode (BitVec.ofNat 32 n) = .error .unassignedOpcode) ∧
    ∀ n ∈ [0x03, 0x08, 0x10, 0x13, 0x18, 0x1A, 0x20, 0x24, 0x30, 0x33, 0x38, 0x39],
      decode (BitVec.ofNat 32 n) ≠ .error .unassignedOpcode := by decide

theorem witness_StepRunsTheHeldCommand :
    admitted busyToy.cfg = true ∧ busyToy.status.busy = true ∧ decode busyToy.cmd = .ok (.montMul 3 0 1 2) ∧
    busyToy.agenda = [] ∧ ({ busyToy with agenda := [.sequencer] } : State).agenda = .sequencer :: [] ∧
    ({ busyToy with agenda := [.host (.read 32 4#32)] } : State).agenda = .host (.read 32 4#32) :: [] ∧
    ({ busyToy with agenda := [.rst] } : State).agenda = .rst :: [] ∧
    toy.status.busy = false ∧ toy.agenda = [] ∧ ({ toy with agenda := [.sequencer] } : State).agenda = .sequencer :: [] ∧
    ({ toy with agenda := [.host (.write 32 0#32 0x39#32)] } : State).agenda = .host (.write 32 0#32 0x39#32) :: [] ∧
    ({ toy with agenda := [.rst] } : State).agenda = .rst :: [] := by decide

theorem witness_CmdWriteIsAcceptedOrDropped : toy.status.busy = false ∧ busyToy.status.busy = true := by decide

theorem witness_WordThatIsNoCommandRaisesIllegalOpcode :
    admitted toy.cfg = true ∧ (holding toy 0x100#32).status.busy = true ∧ (holding toy 0x100#32).agenda = [] ∧
    decode (holding toy 0x100#32).cmd = .error .reservedField ∧
    decode (holding toy 0xFF#32).cmd = .error .unassignedOpcode ∧
    ({ holding toy 0xFF#32 with agenda := [.sequencer, .rst] } : State).agenda = .sequencer :: [.rst] ∧
    ({ holding toy 0xFF#32 with agenda := [.sequencer, .rst] } : State).status.busy = true := by decide

theorem witness_AdmittedStepAlwaysHasANextState : admitted State.reset.cfg = true ∧ admitted toy.cfg = true := by decide

theorem witness_RefusedConfigurationsAreTheIllFormed :
    wellFormedConfig Config.default ∧ ¬ wellFormedConfig { Config.test with opw := 100 } :=
  ⟨default_wellFormed, fun h => absurd h.1.2.1 (by decide)⟩

/-- A command that completes, and a prime search of three bits that stays pending: 64 draws of 0, each the candidate 4. -/
theorem witness_CommandsCompleteWithOneCode :
    busyToy.status.busy = true ∧
    (nextOf (exec (.montMul 3 0 1 2) busyToy)).map (fun t => t.status.busy) = some false ∧
    (nextOf (exec (.rsaGenPrime 1 0) (holding (drawing (withRegs [3]) (List.replicate 64 0)) 0x121#32))).map
      (fun t => (t.status.busy, t.attempts)) = some (true, 1) := by decide +kernel

theorem witness_ErrorWritesNoDestination :
    (holding (withRegs [0, 7]) 0x40208#32).status.busy = true ∧
    ∃ t, exec (.modInv 2 0 1) (holding (withRegs [0, 7]) 0x40208#32) = .next t ∧ t.status.busy = false ∧
      t.errcode ≠ 0#8 :=
  ⟨by decide, _, rfl, by decide +kernel, by decide +kernel⟩

theorem witness_IllegalOperandIsRaisedByIllFormedCommands :
    toy.errcode = 0#8 ∧ (Instr.ecDbl 1 0).wellFormed = false ∧ (Instr.ecDbl 2 0).wellFormed = true ∧
    ∃ t, exec (.ecDbl 2 0) toy = .next t := ⟨by decide, by decide, by decide, _, rfl⟩

/-- Each reason for BUSERR, and the ends of each mapped range in CFG-T (OPW/8 = 32, DMEM_BYTES = 1024). -/
theorem witness_UnsupportedAccessSetsBuserr :
    (16 ≠ 32) ∧ (0x1001#32 : Word).toNat % 4 ≠ 0 ∧
    (∀ off ∈ [0x01C, 0x048, 0xFFC, 0x1020, 0xFFFC, 0x10400], ¬ (off ≤ 0x018 ∨ (0x020 ≤ off ∧ off ≤ 0x044)) ∧
      ¬ (0x1000 ≤ off ∧ off < 0x1000 + toy.cfg.opw / 8) ∧ ¬ (0x10000 ≤ off ∧ off < 0x10000 + toy.cfg.dmemBytes)) ∧
    (∀ off ∈ [0x000, 0x018, 0x020, 0x044, 0x1000, 0x101C, 0x10000, 0x103FC], off % 4 = 0 ∧ (off ≤ 0x018 ∨
      (0x020 ≤ off ∧ off ≤ 0x044) ∨ (0x1000 ≤ off ∧ off < 0x1000 + toy.cfg.opw / 8) ∨
      (0x10000 ≤ off ∧ off < 0x10000 + toy.cfg.dmemBytes))) ∧ toy.status.buserr = false := by decide

theorem witness_SupportedReadHasNoSideEffect :
    (0x044#32 : Word).toNat % 4 = 0 ∧ 0x044#32 ≤ 0x044#32 ∧ (0x101C#32 : Word).toNat % 4 = 0 ∧
    0x1000 ≤ (0x101C#32 : Word).toNat ∧ (0x101C#32 : Word).toNat < 0x1000 + toy.cfg.opw / 8 ∧
    ({ toy with unwrittenRead := true } : State).unwrittenRead = true ∧ (0x044#32 : Word).toNat < 0x1000 := by decide

theorem witness_InputWritesAreDroppedWhileBusy :
    busyToy.status.busy = true ∧ ∀ off ∈ [0x010, 0x020, 0x044, 0x1000, 0x101C, 0x10000, 0x103FC], off % 4 = 0 ∧
      (off = 0x010 ∨ (0x020 ≤ off ∧ off ≤ 0x044) ∨ (0x1000 ≤ off ∧ off < 0x1000 + busyToy.cfg.opw / 8) ∨
      (0x10000 ≤ off ∧ off < 0x10000 + busyToy.cfg.dmemBytes)) := by decide

/-- The first and the last word of the window, of a register not written and of one written. -/
theorem witness_OperandWindowWriteReplacesOneWord :
    toy.status.busy = false ∧ toy.cfg.opw ≤ 32768 ∧ 0 < toy.cfg.opw / 32 ∧ 7 < toy.cfg.opw / 32 ∧
    (0x1000#32 : Word).toNat = 0x1000 + 4 * 0 ∧ (0x101C#32 : Word).toNat = 0x1000 + 4 * 7 ∧
    toy.written toy.osel = false ∧ (withRegs [4]).written (withRegs [4]).osel = true := by decide

theorem witness_DmemWindowIsLittleEndian :
    (put toy 1020 (bytes [1, 2, 3, 4])).status.busy = false ∧ toy.cfg.opw ≤ 32768 ∧ 0 < toy.cfg.dmemBytes / 4 ∧
    255 < toy.cfg.dmemBytes / 4 ∧ (0x10000#32 : Word).toNat = 0x10000 + 4 * 0 ∧
    (0x103FC#32 : Word).toNat = 0x10000 + 4 * 255 ∧
    (put toy 1020 (bytes [1, 2, 3, 4])).dmem.read (4 * 255) = some 1#8 ∧
    (put toy 1020 (bytes [1, 2, 3, 4])).dmem.read (4 * 255 + 1) = some 2#8 ∧
    (put toy 1020 (bytes [1, 2, 3, 4])).dmem.read (4 * 255 + 2) = some 3#8 ∧
    (put toy 1020 (bytes [1, 2, 3, 4])).dmem.read (4 * 255 + 3) = some 4#8 := by decide

theorem witness_RegisterPageReadsBack :
    toy.status.busy = false ∧ (0x010#32, 0x0000FFFF#32) ∈ inputRegisters ∧ (0x044#32, 0xFFFFFFFF#32) ∈ inputRegisters ∧
    (0x010#32 : Word) ≠ 0x044#32 ∧ Config.test.opw / 32 < 65536 ∧
    Config.test.dmemBytes / 1024 < 65536 := by decide

theorem witness_InterruptIsEnabledCompletion :
    (0x2#32 : Word).getLsbD 1 = true ∧ (0x2#32 : Word).getLsbD 0 = false ∧ toy.status.busy = false := by decide

theorem witness_BothResetsLeaveTheTable :
    (0x3#32 : Word).getLsbD 1 = true ∧ (0x1#32 : Word).getLsbD 1 = false := by decide

/-- `Inv` of a busy state with written registers, and a step from it. -/
theorem witness_EveryStepKeepsTheInvariant : Inv busyToy ∧ ∃ t, step busyToy = .next t :=
  ⟨{ admitted := by decide
     values := by decide +kernel
     canonical := by decide
     inDmem := fun _ _ => rfl
     busyIsClear := by decide
     errHasCode := by decide
     codeKnown := by decide }, _, rfl⟩

theorem witness_NoStepChangesConfigurationOrClearsTheFault :
    (∃ t, step { toy with unwrittenRead := true } = .next t) ∧
    ({ toy with unwrittenRead := true } : State).unwrittenRead = true := ⟨⟨_, rfl⟩, rfl⟩

theorem witness_TagsChangeOnlyWithTheirPair :
    (∃ t, exec (.ecDbl 2 0) { toy with tag := 1#16 } = .next t ∧
      t.isIdentity 1 ≠ State.isIdentity { toy with tag := 1#16 } 1) ∧
    (hostAccess (.write 32 0x010#32 1#32) toy).tag ≠ toy.tag ∧
    (hostAccess (.write 32 0x00C#32 2#32) { toy with tag := 1#16 }).tag ≠ 1#16 :=
  ⟨⟨_, rfl, by decide +kernel⟩, by decide, by decide⟩

theorem witness_CommandsWriteNoOtherControlRegister :
    ∃ t, exec .salsaQr (put toy 0 (bytes (List.replicate 16 1))) = .next t ∧
      (t.desc ≠ toy.desc ∨ t.dmem ≠ (put toy 0 (bytes (List.replicate 16 1))).dmem) :=
  ⟨_, rfl, Or.inl (by decide +kernel)⟩

/-- Register sources: x2 of MONT_MUL, x0 of MOD_INV, RSA_PRIME_TEST, RSA_SIGN and RSA_VERIFY; x0 of the two prime searches,
which complete with OPERAND_RANGE. -/
theorem witness_ReadingTheUnwrittenIsRecorded_registers :
    (2 ∈ [(0 : Reg), 1, 2] ∧ (withRegs [5, 7]).written 2 = false ∧
      ∃ t, exec (.montMul 3 0 1 2) (withRegs [5, 7]) = .next t) ∧
    (0 ∈ [(0 : Reg), 1] ∧ toy.written 0 = false ∧ ∃ t, exec (.modInv 2 0 1) toy = .next t) ∧
    (∃ t, exec (.rsaPrimeTest 1 0 0) toy = .next t) ∧
    (∃ t, exec (.rsaSign 0 1) toy = .next t) ∧ (∃ t, exec (.rsaVerify 3 0 1) toy = .next t) ∧
    ((Instr.rsaGenPrime 1 0).wellFormed = true ∧ (holding toy 0x121#32).written 0 = false ∧
      (holding toy 0x121#32).status.busy = true ∧
      ∃ t, exec (.rsaGenPrime 1 0) (holding toy 0x121#32) = .next t ∧ t.status.busy = false) ∧
    ((Instr.rsaKeygen 1 0 2 3).wellFormed = true ∧
      ∃ t, exec (.rsaKeygen 1 0 2 3) (holding toy 0x121#32) = .next t ∧ t.status.busy = false) :=
  ⟨⟨by decide, by decide, _, rfl⟩, ⟨by decide, by decide, _, rfl⟩, ⟨_, rfl⟩, ⟨_, rfl⟩, ⟨_, rfl⟩,
    ⟨by decide, by decide, by decide, _, rfl, by decide +kernel⟩, by decide, _, rfl, by decide +kernel⟩

/-- Points: pair 2 (x2, x3) not written and not tagged, and the scalar or message register not written. -/
theorem witness_ReadingTheUnwrittenIsRecorded_points :
    (Reg.isEven 2 = true ∧ ¬ PointReady (pairOf 2) (withRegs [3, 12]) ∧
      ∃ t, exec (.ecOnCurve 6 2) (withRegs [3, 12]) = .next t) ∧
    ((Instr.ecAdd 4 0 2).wellFormed = true ∧ ∃ t, exec (.ecAdd 4 0 2) (withRegs [3, 12]) = .next t) ∧
    ((Instr.ecDbl 4 2).wellFormed = true ∧ ∃ t, exec (.ecDbl 4 2) (withRegs [3, 12]) = .next t) ∧
    ((Instr.ecSmul 4 2 0).wellFormed = true ∧ (withRegs [3, 12]).written 2 = false ∧
      ∃ t, exec (.ecSmul 4 2 0) (withRegs [3, 12]) = .next t) ∧
    ((Instr.egEnc 6 2 4 5).wellFormed = true ∧ (withRegs [3, 12]).written 4 = false ∧
      ∃ t, exec (.egEnc 6 2 4 5) (withRegs [3, 12]) = .next t) ∧
    ((Instr.egDec 8 0 6 5).wellFormed = true ∧ toy.written 0 = false ∧ ∃ t, exec (.egDec 8 0 6 5) toy = .next t) :=
  ⟨⟨by decide, by unfold PointReady; decide, _, rfl⟩, ⟨by decide, _, rfl⟩, ⟨by decide, _, rfl⟩,
    ⟨by decide, by decide, _, rfl⟩, ⟨by decide, by decide, _, rfl⟩, by decide, by decide, _, rfl⟩

/-- DMEM sources, of which the last byte, or every byte, is not written. -/
theorem witness_ReadingTheUnwrittenIsRecorded_bytes :
    (15 < 16 ∧ toy.desc.addrA.toNat + 16 ≤ toy.cfg.dmemBytes ∧ toy.desc.addrD.toNat + 16 ≤ toy.cfg.dmemBytes ∧
      (put toy 0 (bytes (List.replicate 15 1))).dmem.read (toy.desc.addrA.toNat + 15) = none ∧
      ∃ t, exec .salsaQr (put toy 0 (bytes (List.replicate 15 1))) = .next t) ∧
    (63 < 64 ∧ toy.desc.addrA.toNat + 64 ≤ toy.cfg.dmemBytes ∧ toy.desc.addrD.toNat + 64 ≤ toy.cfg.dmemBytes ∧
      toy.dmem.read (toy.desc.addrA.toNat + 63) = none ∧ ∃ t, exec .salsaBlock toy = .next t) ∧
    ((pointing toy 1023 1 1022 2 0).desc.addrA.toNat + (pointing toy 1023 1 1022 2 0).desc.lenA.toNat ≤
        toy.cfg.dmemBytes ∧
      (pointing toy 1023 1 1022 2 0).desc.addrB.toNat + (pointing toy 1023 1 1022 2 0).desc.lenB.toNat ≤
        toy.cfg.dmemBytes ∧
      (pointing toy 1023 1 1022 2 0).desc.addrD.toNat + nbytes (toy.reg 0) ≤ toy.cfg.dmemBytes ∧
      0 < (pointing toy 1023 1 1022 2 0).desc.lenA.toNat ∧ 1 < (pointing toy 1023 1 1022 2 0).desc.lenB.toNat ∧
      (pointing toy 1023 1 1022 2 0).dmem.read (1023 + 0) = none ∧
      (pointing toy 1023 1 1022 2 0).dmem.read (1022 + 1) = none ∧
      (∃ t, exec (.rsaSign 0 1) (pointing toy 1023 1 1022 2 0) = .next t) ∧
      ∃ t, exec (.rsaVerify 3 0 1) (pointing toy 1023 1 1022 2 0) = .next t) ∧
    ∀ i ∈ [Instr.salsaKs, .salsaXor, .ofbEnc, .ofbDec],
      ∃ s : State, s = { streaming [7#8] 300 with dmem := toy.dmem } ∧ s.desc.lenK = 32#32 ∧ s.desc.lenN = 8#32 ∧
        s.desc.addrK.toNat + 32 ≤ s.cfg.dmemBytes ∧ s.desc.addrN.toNat + 8 ≤ s.cfg.dmemBytes ∧
        s.desc.addrD.toNat + s.desc.lenA.toNat ≤ s.cfg.dmemBytes ∧
        s.desc.addrA.toNat + s.desc.lenA.toNat ≤ s.cfg.dmemBytes ∧ s.dmem.read (s.desc.addrK.toNat + 31) = none ∧
        s.dmem.read (s.desc.addrN.toNat + 7) = none ∧ 0 < s.desc.lenA.toNat ∧
        s.dmem.read (s.desc.addrA.toNat + 0) = none ∧ ∃ t, exec i s = .next t := by
  refine ⟨⟨by decide, by decide, by decide, by decide, _, rfl⟩, ⟨by decide, by decide, by decide, by decide, _, rfl⟩,
    ⟨by decide, by decide, by decide, by decide, by decide, by decide, by decide, ⟨_, rfl⟩, _, rfl⟩, fun i hi => ?_⟩
  refine ⟨_, rfl, by decide, by decide, by decide, by decide, by decide, by decide, by decide, by decide, by decide,
    by decide, ?_⟩
  simp only [List.mem_cons, List.not_mem_nil, or_false] at hi
  rcases hi with rfl | rfl | rfl | rfl <;> exact ⟨_, rfl⟩

/-- The last word of the operand window and of the DMEM window. -/
theorem witness_ReadingTheUnwrittenIsRecorded_windows :
    (0x1000 ≤ (0x101C#32 : Word).toNat ∧ (0x101C#32 : Word).toNat < 0x1000 + toy.cfg.opw / 8 ∧
      (0x101C#32 : Word).toNat % 4 = 0 ∧ toy.written toy.osel = false ∧ toy.status.busy = false) ∧
    (toy.cfg.opw ≤ 32768 ∧ 255 < toy.cfg.dmemBytes / 4 ∧ (0x103FC#32 : Word).toNat = 0x10000 + 4 * 255 ∧
      (put toy 1020 (bytes [1, 2, 3])).dmem.read (4 * 255 + 3) = none) := by decide

theorem witness_NopOnlyCompletes : (0x00000100#32 : Word).toNat % 256 = 0 ∧ (0x00000100#32 : Word) ≠ 0#32 ∧
    admitted toy.cfg = true ∧ (holding toy 0x00000100#32).status.busy = true ∧ (holding toy 0x00000100#32).agenda = [] ∧
    (holding toy 0x00000100#32).cmd = 0x00000100#32 := by decide

/-- a = 0 and b = m − 1. -/
theorem witness_MontMulWritesTheMontgomeryProduct :
    Written [0, 1, 2] (withRegs [0, 96, 97]) ∧ (withRegs [0, 96, 97]).reg 2 % 2 = 1 ∧
    (withRegs [0, 96, 97]).reg 0 < (withRegs [0, 96, 97]).reg 2 ∧
    (withRegs [0, 96, 97]).reg 1 < (withRegs [0, 96, 97]).reg 2 := by unfold Written; decide

theorem witness_ModMulWritesTheProduct :
    Written [0, 1, 2] (withRegs [5, 7, 1]) ∧ (withRegs [5, 7, 1]).reg 2 ≠ 0 := by unfold Written; decide

theorem witness_ModExpWritesTheExactPower :
    Written [0, 1, 2] (withRegs [0, 0, 5]) ∧ (withRegs [0, 0, 5]).reg 2 ≠ 0 := by unfold Written; decide

/-- m = 1, an invertible element, and 0 mod 7. -/
theorem witness_ModInvWritesTheInverseOrRaises :
    Written [0, 1] (withRegs [5, 1]) ∧ (withRegs [5, 1]).reg 1 ≠ 0 ∧
    Nat.gcd ((withRegs [5, 1]).reg 0) ((withRegs [5, 1]).reg 1) = 1 ∧
    Written [0, 1] (withRegs [17, 3120]) ∧ Nat.gcd ((withRegs [17, 3120]).reg 0) ((withRegs [17, 3120]).reg 1) = 1 ∧
    Written [0, 1] (withRegs [0, 7]) ∧ Nat.gcd ((withRegs [0, 7]).reg 0) ((withRegs [0, 7]).reg 1) ≠ 1 := by
  unfold Written; decide +kernel

/-- G, the identity, and the corner (96, 96) of the range. -/
theorem witness_EcOnCurveWritesTheTruthValue :
    Reg.isEven 0 = true ∧ PointReady (pairOf 0) (withRegs [3, 12]) ∧
    ((withRegs [3, 12]).readPoint (pairOf 0)).inRange toy.cfg.curve = true ∧
    PointReady (pairOf 0) { toy with tag := 1#16 } ∧
    (State.readPoint { toy with tag := 1#16 } (pairOf 0)).inRange toy.cfg.curve = true ∧
    PointReady (pairOf 0) (withRegs [96, 96]) ∧
    ((withRegs [96, 96]).readPoint (pairOf 0)).inRange toy.cfg.curve = true := by unfold PointReady; decide

/-- O + G, G + O, and G + (−G). -/
theorem witness_EcAddIdentityAndVerticalLine :
    (Instr.ecAdd 4 0 2).wellFormed = true ∧
    (PointReady (pairOf 0) { withRegs [0, 0, 3, 12] with tag := 1#16 } ∧
      PointReady (pairOf 2) { withRegs [0, 0, 3, 12] with tag := 1#16 } ∧
      State.readPoint { withRegs [0, 0, 3, 12] with tag := 1#16 } (pairOf 0) = .identity ∧
      State.readPoint { withRegs [0, 0, 3, 12] with tag := 1#16 } (pairOf 2) = .affine 3 12) ∧
    (State.readPoint { withRegs [3, 12] with tag := 2#16 } (pairOf 2) = .identity ∧
      PointReady (pairOf 0) { withRegs [3, 12] with tag := 2#16 } ∧
      PointReady (pairOf 2) { withRegs [3, 12] with tag := 2#16 }) ∧
    (PointReady (pairOf 0) (withRegs [3, 12, 3, 85]) ∧ PointReady (pairOf 2) (withRegs [3, 12, 3, 85]) ∧
      (withRegs [3, 12, 3, 85]).readPoint (pairOf 0) = .affine 3 12 ∧
      (withRegs [3, 12, 3, 85]).readPoint (pairOf 2) = .affine 3 85 ∧ (12 : Nat) ≠ 85) ∧
    (Point.affine 3 85).inRange toy.cfg.curve = true ∧ Point.identity.inRange toy.cfg.curve = true := by
  unfold PointReady; decide

theorem witness_EcAddWritesTheSecantSum :
    curveOk (withRegs [3, 12, 64, 80]).cfg.curve ∧ (Instr.ecAdd 4 0 2).wellFormed = true ∧
    PointReady (pairOf 0) (withRegs [3, 12, 64, 80]) ∧ PointReady (pairOf 2) (withRegs [3, 12, 64, 80]) ∧
    (withRegs [3, 12, 64, 80]).readPoint (pairOf 0) = .affine 3 12 ∧
    (withRegs [3, 12, 64, 80]).readPoint (pairOf 2) = .affine 64 80 ∧
    3 < toy.cfg.curve.p ∧ 12 < toy.cfg.curve.p ∧ 64 < toy.cfg.curve.p ∧ 80 < toy.cfg.curve.p ∧ (3 : Nat) ≠ 64 :=
  ⟨test_wellFormed.2, by unfold PointReady; decide⟩

/-- The identity, (5, 0), (3, 12), and the same point in a second pair. -/
theorem witness_EcDblDoublesOrRaises :
    curveOk (withRegs [5, 0]).cfg.curve ∧ (Instr.ecDbl 4 0).wellFormed = true ∧
    (PointReady (pairOf 0) { toy with tag := 1#16 } ∧ State.readPoint { toy with tag := 1#16 } (pairOf 0) = .identity) ∧
    (PointReady (pairOf 0) (withRegs [5, 0]) ∧ (withRegs [5, 0]).readPoint (pairOf 0) = .affine 5 0 ∧
      5 < toy.cfg.curve.p) ∧
    (PointReady (pairOf 0) (withRegs [3, 12, 3, 12]) ∧ (withRegs [3, 12, 3, 12]).readPoint (pairOf 0) = .affine 3 12 ∧
      3 < toy.cfg.curve.p ∧ 12 < toy.cfg.curve.p ∧ Reg.isEven 2 = true ∧
      PointReady (pairOf 2) (withRegs [3, 12, 3, 12]) ∧
      (withRegs [3, 12, 3, 12]).readPoint (pairOf 2) = (withRegs [3, 12, 3, 12]).readPoint (pairOf 0)) :=
  ⟨test_wellFormed.2, by unfold PointReady; decide⟩

/-- The scan answers: k = 1 and the largest k with the point (1, 24), whose double is (1, 73), whose double it is in turn;
for k = 1 the accumulator takes the point and keeps it. -/
theorem witness_EcSmulWritesTheMultiple : (Instr.ecSmul 4 2 0).wellFormed = true ∧ Written [2] (withRegs [1, 24, 1]) ∧
    PointReady (pairOf 0) (withRegs [1, 24, 1]) ∧
    ((withRegs [1, 24, 1]).readPoint (pairOf 0)).inRange toy.cfg.curve = true ∧ (withRegs [1, 24, 1]).reg 2 < 2 ^ 256 ∧
    ScanAnswers toy.cfg.curve ((withRegs [1, 24, 1]).reg 2) ((withRegs [1, 24, 1]).readPoint (pairOf 0))
      (.affine 1 24) := by
  refine ⟨by decide, by unfold Written; decide, by unfold PointReady; decide, by decide, by decide,
    fun i => if i = 0 then .identity else .affine 1 24, fun i => if i % 2 = 0 then .affine 1 24 else .affine 1 73,
    rfl, rfl, ?_, rfl⟩
  decide +kernel

/-- The scan answers for O with the largest k, and for no point with (5, 0), whose doubling raises, for k = 0 and k = 2. -/
theorem witness_EcSmulWritesTheMultiple_ends :
    ScanAnswers toy.cfg.curve (2 ^ 256 - 1) (State.readPoint { toy with tag := 1#16 } (pairOf 0)) .identity ∧
    PointReady (pairOf 0) { toy with tag := 1#16 } ∧
    ∀ k ∈ [0, 2], Written [2] (withRegs [5, 0, k]) ∧ PointReady (pairOf 0) (withRegs [5, 0, k]) ∧
      ((withRegs [5, 0, k]).readPoint (pairOf 0)).inRange toy.cfg.curve = true ∧ (withRegs [5, 0, k]).reg 2 < 2 ^ 256 ∧
      ∀ r, ¬ ScanAnswers toy.cfg.curve ((withRegs [5, 0, k]).reg 2) ((withRegs [5, 0, k]).readPoint (pairOf 0)) r := by
  refine ⟨⟨fun _ => .identity, fun _ => .identity, rfl, by decide, fun i _ => ⟨by split <;> rfl, rfl⟩, rfl⟩,
    by unfold PointReady; decide, fun k hk => ?_⟩
  have raises : pointAdd toy.cfg.curve (.affine 5 0) (.affine 5 0) = none := by decide +kernel
  have h0 : (withRegs [5, 0, k]).readPoint (pairOf 0) = .affine 5 0 := by revert k; decide
  refine ⟨by unfold Written; decide +revert, by unfold PointReady; decide +revert, by rw [h0]; decide,
    by revert k; decide, ?_⟩
  rintro r ⟨acc, run, -, hr, hs, -⟩
  have h := (hs 0 (by decide)).2
  rw [hr, h0, raises] at h
  cases h

/-- Multiples of G and of a multiple of G: j = 0, 1, 101 and the largest j, and k = 0 and the largest k. -/
theorem witness_EcSmulWritesTheMultiple_group : curveOk toy.cfg.curve ∧
    (∀ k ∈ [0, 2 ^ 256 - 1], k < 2 ^ 256) ∧
    ∀ jp ∈ [(0, Point.identity), (1, .affine 3 12), (2, .affine 64 80), (101, .identity),
      (2 ^ 256 - 1, .affine 28 87)],
      jp.1 < 2 ^ 256 ∧ scalarMult toy.cfg.curve jp.1 (basePoint toy.cfg.curve) = some jp.2 :=
  ⟨test_wellFormed.2, by decide, by decide +kernel⟩

theorem witness_SumsAndMultiplesStayOnTheCurve :
    curveOk Config.toy97 ∧ (Point.affine 3 12).inRange Config.toy97 = true ∧
    (Point.affine 64 80).inRange Config.toy97 = true ∧ isOnCurve Config.toy97 (.affine 3 12) = true ∧
    isOnCurve Config.toy97 (.affine 64 80) = true ∧
    pointAdd Config.toy97 (.affine 3 12) (.affine 64 80) = some (.affine 18 81) ∧
    scalarMult Config.toy97 10 (.affine 3 12) = some (.affine 78 2) :=
  ⟨test_wellFormed.2, by decide +kernel⟩

theorem witness_EgKeygenWritesAKeyPair : curveOk toy.cfg.curve ∧ (Instr.egKeygen 0 2).wellFormed = true :=
  ⟨test_wellFormed.2, by decide⟩

/-- V-EG2: Q = (10, 8), m = 42 and m = p − 1, k = 13. -/
theorem witness_EgEncWritesTheCiphertext : (Instr.egEnc 6 2 4 5).wellFormed = true ∧ ∀ m ∈ [0, 42, 96],
    PointReady (pairOf 2) (drawing (withRegs [0, 0, 10, 8, m]) [13]) ∧
    Written [4] (drawing (withRegs [0, 0, 10, 8, m]) [13]) ∧
    ((drawing (withRegs [0, 0, 10, 8, m]) [13]).readPoint (pairOf 2)).inRange toy.cfg.curve = true ∧
    (drawing (withRegs [0, 0, 10, 8, m]) [13]).reg 4 < toy.cfg.curve.p ∧
    ((drawing (withRegs [0, 0, 10, 8, m]) [13]).rng.drawRange 1 (toy.cfg.curve.n - 1)).1 = 13 ∧
    scalarMult toy.cfg.curve 13 (basePoint toy.cfg.curve) = some (.affine 4 59) ∧
    scalarMult toy.cfg.curve 13 ((drawing (withRegs [0, 0, 10, 8, m]) [13]).readPoint (pairOf 2)) =
      some (.affine 78 95) := by unfold Written PointReady; decide +kernel

/-- EG_ENC: Q = O, and Q = (0, 1), off the curve, with k = 1, whose secret has x = 0. EG_DEC: d = 101 with C1 = G. -/
theorem witness_DegenerateSecretIsRefused : (Instr.egEnc 6 2 4 5).wellFormed = true ∧
    (PointReady (pairOf 2) { drawing (withRegs [0, 0, 10, 8, 42]) [13] with tag := 2#16 } ∧
      Written [4] { drawing (withRegs [0, 0, 10, 8, 42]) [13] with tag := 2#16 } ∧
      scalarMult toy.cfg.curve 13 (basePoint toy.cfg.curve) = some (.affine 4 59) ∧
      scalarMult toy.cfg.curve 13
        (State.readPoint { drawing (withRegs [0, 0, 10, 8, 42]) [13] with tag := 2#16 } (pairOf 2)) = some .identity) ∧
    (PointReady (pairOf 2) (drawing (withRegs [0, 0, 0, 1, 42]) [1]) ∧
      Written [4] (drawing (withRegs [0, 0, 0, 1, 42]) [1]) ∧
      ((drawing (withRegs [0, 0, 0, 1, 42]) [1]).readPoint (pairOf 2)).inRange toy.cfg.curve = true ∧
      (drawing (withRegs [0, 0, 0, 1, 42]) [1]).reg 4 < toy.cfg.curve.p ∧
      ((drawing (withRegs [0, 0, 0, 1, 42]) [1]).rng.drawRange 1 (toy.cfg.curve.n - 1)).1 = 1 ∧
      scalarMult toy.cfg.curve 1 (basePoint toy.cfg.curve) = some (.affine 3 12) ∧
      scalarMult toy.cfg.curve 1 ((drawing (withRegs [0, 0, 0, 1, 42]) [1]).readPoint (pairOf 2)) =
        some (.affine 0 1)) ∧
    ((Instr.egDec 8 0 6 5).wellFormed = true ∧ Written [0, 5] (withRegs [101, 0, 0, 0, 0, 75, 3, 12]) ∧
      PointReady (pairOf 6) (withRegs [101, 0, 0, 0, 0, 75, 3, 12]) ∧
      ((withRegs [101, 0, 0, 0, 0, 75, 3, 12]).readPoint (pairOf 6)).inRange toy.cfg.curve = true ∧
      (withRegs [101, 0, 0, 0, 0, 75, 3, 12]).reg 0 < 2 ^ 256 ∧
      (withRegs [101, 0, 0, 0, 0, 75, 3, 12]).reg 5 < toy.cfg.curve.p ∧
      scalarMult toy.cfg.curve 101 ((withRegs [101, 0, 0, 0, 0, 75, 3, 12]).readPoint (pairOf 6)) = some .identity) := by
  unfold Written PointReady; decide +kernel

/-- EG_ENC with the public key Q = (5, 0), off the subgroup of G, and k = 2. -/
theorem witness_DegenerateSecretIsRefused_none :
    PointReady (pairOf 2) (drawing (withRegs [0, 0, 5, 0, 42]) [2]) ∧
    Written [4] (drawing (withRegs [0, 0, 5, 0, 42]) [2]) ∧
    ((drawing (withRegs [0, 0, 5, 0, 42]) [2]).readPoint (pairOf 2)).inRange toy.cfg.curve = true ∧
    (drawing (withRegs [0, 0, 5, 0, 42]) [2]).reg 4 < toy.cfg.curve.p ∧
    ((drawing (withRegs [0, 0, 5, 0, 42]) [2]).rng.drawRange 1 (toy.cfg.curve.n - 1)).1 = 2 ∧
    scalarMult toy.cfg.curve 2 ((drawing (withRegs [0, 0, 5, 0, 42]) [2]).readPoint (pairOf 2)) = none := by
  unfold Written PointReady; decide +kernel

/-- The arm of entry 17: EG_ENC in a configuration that does not meet R9, whose base point is (5, 0), with k = 2. -/
theorem witness_DegenerateSecretIsRefused_base :
    ∃ s : State, s = { drawing (withRegs [0, 0, 10, 8, 42]) [2] with
        cfg := { Config.test with curve := { Config.toy97 with gx := 5, gy := 0 } } } ∧
      PointReady (pairOf 2) s ∧ Written [4] s ∧ (s.readPoint (pairOf 2)).inRange s.cfg.curve = true ∧
      s.reg 4 < s.cfg.curve.p ∧ (s.rng.drawRange 1 (s.cfg.curve.n - 1)).1 = 2 ∧
      scalarMult s.cfg.curve 2 (basePoint s.cfg.curve) = none :=
  ⟨_, rfl, by unfold PointReady; decide, by unfold Written; decide, by decide +kernel, by decide +kernel,
    by decide +kernel, by decide +kernel⟩

/-- EG_DEC: d = 2 with C1 = (5, 0), where the doubling raises, and d = 1 with C1 = (0, 1), where S.x = 0. -/
theorem witness_EgDecRecoversThePlaintext_raises :
    (∀ r ∈ [(2, 5, 0), (1, 0, 1)], Written [0, 5] (withRegs [r.1, 0, 0, 0, 0, 75, r.2.1, r.2.2]) ∧
      PointReady (pairOf 6) (withRegs [r.1, 0, 0, 0, 0, 75, r.2.1, r.2.2]) ∧
      ((withRegs [r.1, 0, 0, 0, 0, 75, r.2.1, r.2.2]).readPoint (pairOf 6)).inRange toy.cfg.curve = true ∧
      (withRegs [r.1, 0, 0, 0, 0, 75, r.2.1, r.2.2]).reg 0 < 2 ^ 256 ∧
      (withRegs [r.1, 0, 0, 0, 0, 75, r.2.1, r.2.2]).reg 5 < toy.cfg.curve.p) ∧
    scalarMult toy.cfg.curve 2 ((withRegs [2, 0, 0, 0, 0, 75, 5, 0]).readPoint (pairOf 6)) = none ∧
    scalarMult toy.cfg.curve 1 ((withRegs [1, 0, 0, 0, 0, 75, 0, 1]).readPoint (pairOf 6)) = some (.affine 0 1) ∧
    0 % toy.cfg.curve.p = 0 := by
  unfold Written PointReady; decide +kernel

/-- V-EG1 to V-EG3 in turn: the draw d = 7 gives Q = (10, 8); m = 42 with the draw k = 13 gives C1 = (4, 59) and C2 = 75. -/
theorem witness_EgDecRecoversThePlaintext_roundTrip :
    ∃ s0 t0 s1 t1 s2 : State, s0 = drawing toy [7] ∧ s1 = drawing (withRegs [0, 0, 10, 8, 42]) [13] ∧
      s2 = withRegs [7, 0, 0, 0, 0, 75, 4, 59] ∧ curveOk s0.cfg.curve ∧ s1.cfg.curve = s0.cfg.curve ∧
      s2.cfg.curve = s0.cfg.curve ∧
      (Instr.egKeygen 0 2).wellFormed = true ∧ exec (.egKeygen 0 2) s0 = .next t0 ∧
      (Instr.egEnc 6 2 4 5).wellFormed = true ∧ PointReady (pairOf 2) s1 ∧ Written [4] s1 ∧
      s1.readPoint (pairOf 2) = t0.readPoint (pairOf 2) ∧ exec (.egEnc 6 2 4 5) s1 = .next t1 ∧ Succeeded s1 t1 ∧
      (Instr.egDec 8 0 6 5).wellFormed = true ∧ Written [0, 5] s2 ∧ PointReady (pairOf 6) s2 ∧
      s2.reg 0 = t0.reg 0 ∧ s2.readPoint (pairOf 6) = t1.readPoint (pairOf 6) ∧ s2.reg 5 = t1.reg 5 :=
  ⟨_, _, _, _, _, rfl, rfl, rfl, test_wellFormed.2, by decide, by decide, by decide, rfl, by decide,
    by unfold PointReady; decide, by unfold Written; decide, by decide +kernel, rfl, by unfold Succeeded; decide +kernel,
    by decide, by unfold Written; decide, by unfold PointReady; decide, by decide +kernel, by decide +kernel,
    by decide +kernel⟩

theorem witness_EgDecRecoversThePlaintext_commutes : curveOk toy.cfg.curve ∧ 7 < 2 ^ 256 ∧ 13 < 2 ^ 256 ∧
    scalarMult toy.cfg.curve 7 (basePoint toy.cfg.curve) = some (.affine 10 8) ∧
    scalarMult toy.cfg.curve 13 (basePoint toy.cfg.curve) = some (.affine 4 59) :=
  ⟨test_wellFormed.2, by decide, by decide, by decide +kernel, by decide +kernel⟩

/-- V-EG3: d = 7, C1 = (4, 59), C2 = 75, and the plaintext m = 42. -/
theorem witness_EgDecRecoversThePlaintext : curveOk toy.cfg.curve ∧ (Instr.egDec 8 0 6 5).wellFormed = true ∧
    Written [0, 5] (withRegs [7, 0, 0, 0, 0, 75, 4, 59]) ∧ PointReady (pairOf 6) (withRegs [7, 0, 0, 0, 0, 75, 4, 59]) ∧
    ((withRegs [7, 0, 0, 0, 0, 75, 4, 59]).readPoint (pairOf 6)).inRange toy.cfg.curve = true ∧
    (withRegs [7, 0, 0, 0, 0, 75, 4, 59]).reg 0 < 2 ^ 256 ∧
    (withRegs [7, 0, 0, 0, 0, 75, 4, 59]).reg 5 < toy.cfg.curve.p ∧
    scalarMult toy.cfg.curve 7 ((withRegs [7, 0, 0, 0, 0, 75, 4, 59]).readPoint (pairOf 6)) = some (.affine 78 95) ∧
    78 % toy.cfg.curve.p ≠ 0 ∧ 42 < toy.cfg.curve.p ∧
    (withRegs [7, 0, 0, 0, 0, 75, 4, 59]).reg 5 = 42 * 78 % toy.cfg.curve.p :=
  ⟨test_wellFormed.2, by unfold Written PointReady; decide +kernel⟩

/-- The primes 2, 29 (no draw) and 31 (draws). -/
theorem witness_PrimeTestAcceptsEveryPrime : ∀ c ∈ [2, 29, 31], Written [0] (withRegs [c]) ∧ ((withRegs [c]).reg 0).Prime := by
  unfold Written; decide +kernel

theorem witness_PrimeTestRejectsByTrialDivision : Written [0] (withRegs [1]) ∧ (withRegs [1]).reg 0 < 2 ∧
    Written [0] (withRegs [4]) ∧ 2 ∈ [2, 3, 5, 7, 11, 13, 17, 19, 23, 29] ∧ (withRegs [4]).reg 0 % 2 = 0 ∧
    (withRegs [4]).reg 0 ≠ 2 ∧
    ∀ c ∈ [31, 31 * 37], Written [0] (withRegs [c]) ∧ 2 ≤ (withRegs [c]).reg 0 ∧
      ∀ sp ∈ [2, 3, 5, 7, 11, 13, 17, 19, 23, 29], (withRegs [c]).reg 0 % sp ≠ 0 := by unfold Written; decide

/-- bits = 2 with the candidate 3, and bits = OPW with the field prime of P-256. -/
theorem witness_GenPrimeTakesAPrimeCandidate :
    (Written [0] (drawing (withRegs [2]) [1]) ∧ 2 ≤ (drawing (withRegs [2]) [1]).reg 0 ∧
      (drawing (withRegs [2]) [1]).reg 0 ≤ toy.cfg.opw ∧
      (1 % 2 ^ (drawing (withRegs [2]) [1]).reg 0 ||| 2 ^ ((drawing (withRegs [2]) [1]).reg 0 - 1)).Prime) ∧
    (Written [0] (drawing (withRegs [256]) [Config.p256.p]) ∧
      (drawing (withRegs [256]) [Config.p256.p]).reg 0 ≤ toy.cfg.opw ∧
      (Config.p256.p % 2 ^ 256 ||| 2 ^ (256 - 1)).Prime) := by
  refine ⟨by unfold Written; decide +kernel, by unfold Written; decide, by decide, ?_⟩
  have h : Config.p256.p % 2 ^ 256 ||| 2 ^ (256 - 1) = Config.p256.p := by decide +kernel
  rw [h]
  exact p256_p_prime

/-- V-RSA2: bits = 8, the second candidate. -/
theorem witness_PrimeSearchThatEndsCompletes :
    admitted toy.cfg = true ∧ (holding (drawing (withRegs [8]) [0x00, 0x65, 2, 3, 4, 5, 6]) 0x121#32).status.busy = true ∧
    (holding (drawing (withRegs [8]) [0x00, 0x65, 2, 3, 4, 5, 6]) 0x121#32).agenda = [] ∧
    decode (holding toy 0x121#32).cmd = .ok (.rsaGenPrime 1 0) ∧ Written [0] (withRegs [8]) ∧
    2 ≤ (withRegs [8]).reg 0 ∧ (withRegs [8]).reg 0 ≤ toy.cfg.opw ∧
    genPrime ((withRegs [8]).reg 0) 2 ⟨[0x00, 0x65, 2, 3, 4, 5, 6], 0⟩ = some (229, ⟨[], 7⟩) := by
  unfold Written; decide +kernel

/-- RSA_KEYGEN of 4 bits (the word 0x01882022): p = 2 and q = 3; p = q = 2. And RSA_GEN_PRIME of three bits whose search
stays pending: 64 draws of 0, each the candidate 4. -/
theorem witness_PrimeSearchThatEndsCompletes_keygen :
    (∀ v ∈ [0, 1], (holding (drawing (withRegs [0, 4]) [0, v]) 0x01882022#32).status.busy = true ∧
      (holding (drawing (withRegs [0, 4]) [0, v]) 0x01882022#32).agenda = [] ∧
      Written [1] (holding (drawing (withRegs [0, 4]) [0, v]) 0x01882022#32)) ∧
    admitted toy.cfg = true ∧ decode (holding toy 0x01882022#32).cmd = .ok (.rsaKeygen 0 1 2 3) ∧
    (Instr.rsaKeygen 0 1 2 3).wellFormed = true ∧ 4 ≤ (withRegs [0, 4]).reg 1 ∧ (withRegs [0, 4]).reg 1 ≤ toy.cfg.opw ∧
    genPrime ((withRegs [0, 4]).reg 1 / 2) 1 ⟨[0, 1], 0⟩ = some (2, ⟨[1], 1⟩) ∧
    genPrime ((withRegs [0, 4]).reg 1 / 2) 1 ⟨[1], 1⟩ = some (3, ⟨[], 2⟩) ∧
    genPrime ((withRegs [0, 4]).reg 1 / 2) 1 ⟨[0, 0], 0⟩ = some (2, ⟨[0], 1⟩) ∧
    genPrime ((withRegs [0, 4]).reg 1 / 2) 1 ⟨[0], 1⟩ = some (2, ⟨[], 2⟩) ∧
    (holding (drawing (withRegs [3]) (List.replicate 64 0)) 0x121#32).status.busy = true ∧
    ((nextOf (exec (.rsaGenPrime 1 0) (holding (drawing (withRegs [3]) (List.replicate 64 0)) 0x121#32))).map
      fun t => t.status.busy) = some true := by
  unfold Written; decide +kernel

/-- V-RSA3: p = 2 and q = 3; p = q = 2; and p = 917519 with q = 524309, where 65537 divides φ. -/
theorem witness_RsaKeygenWritesAKeyOrRaises : (Instr.rsaKeygen 0 1 2 3).wellFormed = true ∧
    (Written [1] (drawing (withRegs [0, 4]) [0, 1]) ∧ 4 ≤ (withRegs [0, 4]).reg 1 ∧
      (withRegs [0, 4]).reg 1 ≤ toy.cfg.opw ∧ genPrime 2 toy.searchFuel ⟨[0, 1], 0⟩ = some (2, ⟨[1], 1⟩) ∧
      genPrime 2 toy.searchFuel ⟨[1], 1⟩ = some (3, ⟨[], 2⟩) ∧ (2 : Nat) ≠ 3 ∧
      Nat.Coprime 65537 ((2 - 1) * (3 - 1))) ∧
    (genPrime 2 toy.searchFuel ⟨[0, 0], 0⟩ = some (2, ⟨[0], 1⟩) ∧
      genPrime 2 toy.searchFuel ⟨[0], 1⟩ = some (2, ⟨[], 2⟩)) ∧
    (genPrime 20 toy.searchFuel ⟨[0x6000F, 2, 3, 4, 5, 6, 0x15, 2, 3, 4, 5, 6], 0⟩ =
        some (917519, ⟨[0x15, 2, 3, 4, 5, 6], 6⟩) ∧
      genPrime 20 toy.searchFuel ⟨[0x15, 2, 3, 4, 5, 6], 6⟩ = some (524309, ⟨[], 12⟩) ∧
      ¬ Nat.Coprime 65537 ((917519 - 1) * (524309 - 1))) := by unfold Written; decide +kernel

/-- A hash of one byte at the end of DMEM, and the empty hash at DMEM_BYTES. -/
theorem witness_RsaSignStoresTheSignature :
    (Written [0, 1] (pointing (put (withRegs [3233, 2753]) 1023 (bytes [0x41])) 1023 1 0 0 1022) ∧
      (withRegs [3233, 2753]).reg 0 ≠ 0 ∧
      Holds (pointing (put (withRegs [3233, 2753]) 1023 (bytes [0x41])) 1023 1 0 0 1022) 1023 (bytes [0x41]) ∧
      1023 + (bytes [0x41]).length ≤ toy.cfg.dmemBytes ∧
      1022 + nbytes ((withRegs [3233, 2753]).reg 0) ≤ toy.cfg.dmemBytes) ∧
    (Written [0, 1] (pointing (withRegs [3233, 2753]) 1024 0 0 0 0) ∧
      Holds (pointing (withRegs [3233, 2753]) 1024 0 0 0 0) 1024 []) := by
  unfold Written Holds; decide +kernel

theorem witness_RsaVerifyComparesIntegers :
    Written [0, 2] (pointing (put (withRegs [3233, 0, 65537]) 0 (bytes [0x41, 2, 0x4c])) 0 1 1 2 0) ∧
    (withRegs [3233, 0, 65537]).reg 0 ≠ 0 ∧
    Holds (pointing (put (withRegs [3233, 0, 65537]) 0 (bytes [0x41, 2, 0x4c])) 0 1 1 2 0) 0 (bytes [0x41]) ∧
    Holds (pointing (put (withRegs [3233, 0, 65537]) 0 (bytes [0x41, 2, 0x4c])) 0 1 1 2 0) 1 (bytes [2, 0x4c]) ∧
    0 + (bytes [0x41]).length ≤ toy.cfg.dmemBytes ∧ 1 + (bytes [2, 0x4c]).length ≤ toy.cfg.dmemBytes := by
  unfold Written Holds; decide +kernel

theorem witness_SignaturesOfShortHashesVerify :
    Nat.Prime 61 ∧ Nat.Prime 53 ∧ (61 : Nat) ≠ 53 ∧ 17 * 2753 % ((61 - 1) * (53 - 1)) = 1 := by
  norm_num

/-- V-SQ1 row 2, the operand at the end of DMEM. -/
theorem witness_SalsaQrStoresTheQuarterRound :
    Holds (pointing (put toy 1008 (bytes (1 :: List.replicate 15 0))) 1008 0 0 0 1008) 1008
      (leBytes 4 (1#32 : Word).toNat ++ leBytes 4 (0#32 : Word).toNat ++ leBytes 4 (0#32 : Word).toNat ++
        leBytes 4 (0#32 : Word).toNat) ∧
    (pointing (put toy 1008 (bytes (1 :: List.replicate 15 0))) 1008 0 0 0 1008).desc.addrA.toNat + 16 ≤
      toy.cfg.dmemBytes ∧
    0x00000080#32 = 0#32 ^^^ (1#32 + 0#32 : Word).rotateLeft 7 ∧
    0x00010200#32 = 0#32 ^^^ (0x80#32 + 1#32 : Word).rotateLeft 9 ∧
    0x20500000#32 = 0#32 ^^^ (0x00010200#32 + 0x80#32 : Word).rotateLeft 13 ∧
    0x08008145#32 = 1#32 ^^^ (0x20500000#32 + 0x00010200#32 : Word).rotateLeft 18 := by
  unfold Holds; decide +kernel

theorem witness_SalsaBlockStoresCore :
    (bytes (List.range 64)).length = 64 ∧
    Holds (pointing (put toy 960 (bytes (List.range 64))) 960 0 0 0 0) 960 (bytes (List.range 64)) ∧
    960 + 64 ≤ toy.cfg.dmemBytes ∧ 0 + 64 ≤ toy.cfg.dmemBytes := by unfold Holds; decide +kernel

/-- LEN_A = 0 with the output at DMEM_BYTES, and LEN_A = 65. -/
theorem witness_SalsaKsStoresTheKeystream :
    ∀ n ∈ [0, 65], (streaming (List.replicate n 0#8) (BitVec.ofNat 32 (1024 - n))).desc.lenK = 32#32 ∧
      (streaming (List.replicate n 0#8) (BitVec.ofNat 32 (1024 - n))).desc.lenN = 8#32 ∧ key.length = 32 ∧
      nonce.length = 8 ∧ Holds (streaming (List.replicate n 0#8) (BitVec.ofNat 32 (1024 - n))) 0 key ∧
      Holds (streaming (List.replicate n 0#8) (BitVec.ofNat 32 (1024 - n))) 32 nonce ∧
      (streaming (List.replicate n 0#8) (BitVec.ofNat 32 (1024 - n))).desc.addrD.toNat + n ≤ toy.cfg.dmemBytes := by
  unfold Holds; decide +kernel

/-- Data of 0 and of 65 bytes, in place. -/
theorem witness_SalsaXorMasksTheData :
    ∀ n ∈ [0, 65], (streaming (List.replicate n 7#8) 64).desc.lenK = 32#32 ∧
      (streaming (List.replicate n 7#8) 64).desc.lenN = 8#32 ∧
      (List.replicate n 7#8).length = (streaming (List.replicate n 7#8) 64).desc.lenA.toNat ∧
      Holds (streaming (List.replicate n 7#8) 64) 0 key ∧ Holds (streaming (List.replicate n 7#8) 64) 32 nonce ∧
      Holds (streaming (List.replicate n 7#8) 64) 64 (List.replicate n 7#8) ∧ 64 + n ≤ toy.cfg.dmemBytes := by
  unfold Holds; decide +kernel

/-- OFB_ENC and OFB_DEC, data of 0 and of 130 bytes. -/
theorem witness_OfbCommandsStoreOfb :
    ∀ n ∈ [0, 130], (streaming (List.replicate n 7#8) 300).desc.lenK = 32#32 ∧
      (streaming (List.replicate n 7#8) 300).desc.lenN = 8#32 ∧
      (List.replicate n 7#8).length = (streaming (List.replicate n 7#8) 300).desc.lenA.toNat ∧
      Holds (streaming (List.replicate n 7#8) 300) 0 key ∧ Holds (streaming (List.replicate n 7#8) 300) 32 nonce ∧
      Holds (streaming (List.replicate n 7#8) 300) 64 (List.replicate n 7#8) ∧ 300 + n ≤ toy.cfg.dmemBytes := by
  unfold Holds; decide +kernel

theorem witness_StreamAndOfbAreSelfInverse :
    key.length = 32 ∧ nonce.length = 8 ∧ 63 ≤ 65 ∧ (bytes (List.range 64)).length ≤ 64 := by decide

/-- Every row of R605 at a boundary: m even, a = m, b = m; m = 0; x = p; m = p; k = 2^256 with OPW > 256; C2 = p; bits = 1 and
OPW + 1, 3; n = 0. -/
theorem witness_OperandRangeTable :
    (Written [0, 1, 2] (withRegs [5, 7, 96]) ∧ (withRegs [5, 7, 96]).reg 2 % 2 = 0 ∧
      (withRegs [97, 1, 97]).reg 2 ≤ (withRegs [97, 1, 97]).reg 0 ∧
      (withRegs [1, 97, 97]).reg 2 ≤ (withRegs [1, 97, 97]).reg 1) ∧
    (Written [0, 1, 2] (withRegs [5, 7, 0]) ∧ (withRegs [5, 7, 0]).reg 2 = 0) ∧
    (PointReady (pairOf 0) (withRegs [97, 12, 3, 12, 0, 97]) ∧ PointReady (pairOf 2) (withRegs [97, 12, 3, 12, 0, 97]) ∧
      PointReady (pairOf 4) (withRegs [97, 12, 3, 12, 0, 97]) ∧
      ((withRegs [97, 12, 3, 12, 0, 97]).readPoint (pairOf 0)).inRange toy.cfg.curve = false ∧
      ((withRegs [97, 12, 3, 12, 0, 97]).readPoint (pairOf 4)).inRange toy.cfg.curve = false) ∧
    ((Instr.ecSmul 4 2 0).wellFormed = true ∧ Written [2] (loadFrom State.reset 0 [3, 12, 2 ^ 256]) ∧
      2 ^ 256 ≤ (loadFrom State.reset 0 [3, 12, 2 ^ 256]).reg 2) ∧
    ((Instr.egEnc 6 2 4 5).wellFormed = true ∧ Written [4] (withRegs [0, 0, 10, 8, 97]) ∧
      toy.cfg.curve.p ≤ (withRegs [0, 0, 10, 8, 97]).reg 4) ∧
    ((Instr.egDec 8 0 6 5).wellFormed = true ∧ Written [0, 5] (withRegs [7, 0, 0, 0, 0, 97, 4, 59]) ∧
      PointReady (pairOf 6) (withRegs [7, 0, 0, 0, 0, 97, 4, 59]) ∧
      toy.cfg.curve.p ≤ (withRegs [7, 0, 0, 0, 0, 97, 4, 59]).reg 5) ∧
    (Written [0] (withRegs [1]) ∧ (withRegs [1]).reg 0 < 2 ∧ toy.cfg.opw < (withRegs [257]).reg 0 ∧
      (withRegs [3]).reg 0 < 4 ∧ (Instr.rsaKeygen 1 0 2 3).wellFormed = true) ∧
    (Written [0, 1] (pointing (put (withRegs [0, 5]) 0 (bytes [1, 2])) 0 1 1 1 1024) ∧
      (withRegs [0, 5]).reg 0 = 0 ∧
      Holds (pointing (put (withRegs [0, 5]) 0 (bytes [1, 2])) 0 1 1 1 1024) 0 (bytes [1]) ∧
      Holds (pointing (put (withRegs [0, 5]) 0 (bytes [1, 2])) 0 1 1 1 1024) 1 (bytes [2])) := by
  unfold Written PointReady Holds; refine ⟨?_, ?_, ?_, ?_, ?_, ?_, ?_, ?_⟩ <;> decide +kernel

theorem witness_WrongKeyOrNonceLengthRaisesBadLength :
    (badLength (streaming [] 0)).desc.lenK ≠ 32#32 ∧ toy.desc.lenN ≠ 8#32 ∧ toy.errcode = 0#8 ∧
    (streaming [] 0).desc.lenK = 32#32 ∧ (streaming [] 0).desc.lenN = 8#32 ∧
    (∃ t, exec .salsaXor (streaming [] 0) = .next t) ∧ ∃ t, exec .salsaQr toy = .next t :=
  ⟨by decide, by decide, by decide, by decide, by decide, ⟨_, rfl⟩, _, rfl⟩

/-- Each row of R604 one byte too far. -/
theorem witness_RegionOutsideDmemRaisesMemRange :
    (Written [0, 1] (pointing (withRegs [3233, 2753]) 1024 1 1023 2 1023) ∧ toy.cfg.dmemBytes < 1024 + 1 ∧
      toy.cfg.dmemBytes < 1023 + 2 ∧ toy.cfg.dmemBytes < 1023 + nbytes ((withRegs [3233, 2753]).reg 0)) ∧
    toy.cfg.dmemBytes < (pointing toy 1009 0 0 0 0).desc.addrA.toNat + 16 ∧
    toy.cfg.dmemBytes < (pointing toy 961 0 0 0 0).desc.addrA.toNat + 64 ∧
    toy.cfg.dmemBytes < (pointing toy 0xFFFFFFF8 0 0 0 0).desc.addrA.toNat + 16 ∧
    ((streaming [] 1025).desc.lenK = 32#32 ∧ (streaming [] 1025).desc.lenN = 8#32 ∧
      toy.cfg.dmemBytes < (streaming [] 1025).desc.addrD.toNat + (streaming [] 1025).desc.lenA.toNat) ∧
    toy.errcode = 0#8 := by unfold Written; decide +kernel

end Sys2Proof.Tests
end

section
/-! Which states are refused (00_scope.md R8, R9; 60_exceptions.md R622): the check `admitted` decides well-formedness, and
an admitted state always has a next state, so that the refusal of `step` is exactly its check of the configuration. -/

namespace Sys2Proof.Machine

open Sys2Proof

/-- The short cut of `admitted` changes no answer (entry 2): the two configurations it names are well-formed themselves. -/
theorem admitted_iff_wellFormedConfig (c : Config) : admitted c = true ↔ wellFormedConfig c := by
  simp only [admitted, Bool.or_eq_true, decide_eq_true_iff]
  constructor
  · rintro ((hdefault | htest) | hwf)
    · exact hdefault ▸ default_wellFormed
    · exact htest ▸ test_wellFormed
    · exact hwf
  · exact Or.inr

/-- The sequencer never stops the machine: a command settles, a word that is no command raises, and IDLE stays (R622). -/
theorem sequencerStep_has_next (s : State) : ∃ t, sequencerStep s = .next t := by
  unfold sequencerStep
  split
  case isTrue =>
    split
    case h_1 i _ => exact ⟨_, exec_eq i s⟩
    case h_2 => exact ⟨_, conclude_eq s _⟩
  case isFalse => exact ⟨s, rfl⟩

/-- No event of the interleaving stops the machine (R214, R622). -/
theorem happen_has_next (e : Event) (s : State) : ∃ t, happen e s = .next t := by
  cases e with
  | host a => exact ⟨hostAccess a s, rfl⟩
  | sequencer => exact sequencerStep_has_next s
  | rst => exact ⟨s.hardwareReset, rfl⟩

/-- R622: whatever the agenda, an admitted configuration has a next state. -/
theorem step_has_next_of_admitted {s : State} (hadm : admitted s.cfg = true) : ∃ t, step s = .next t := by
  unfold step
  rw [if_pos hadm]
  split
  · exact sequencerStep_has_next s
  · exact happen_has_next _ _

theorem step_of_not_admitted {s : State} (hadm : ¬ admitted s.cfg = true) :
    step s = .refused .illFormedConfiguration := if_neg hadm

/-- Settles O9: `step` refuses where `admitted` fails and nowhere else, and `admitted` decides `wellFormedConfig`. -/
theorem refusedConfigurationsAreTheIllFormed : Obligations.RefusedConfigurationsAreTheIllFormed := by
  intro s
  rw [← admitted_iff_wellFormedConfig]
  constructor
  · intro hrefused hadm
    obtain ⟨t, hnext⟩ := step_has_next_of_admitted hadm
    rw [hnext] at hrefused
    cases hrefused
  · exact step_of_not_admitted

end Sys2Proof.Machine
end

section
/-! What the commands write (10_state.md R100 to R104, R113, R114): which identity tags and which descriptor a command
can change, and that every value and every output string it writes fits its destination. -/

namespace Sys2Proof.Machine

open Sys2Proof

/-! ### Results of the arithmetic lie in their ranges -/

/-- For m = 0 there is no inverse: the loop of R430 ends at once with r0 = 0. -/
theorem modInv_lt {a : Int} {m v : Nat} (h : modInv a m = some v) : v < m := by
  rcases Nat.eq_zero_or_pos m with rfl | hm
  · simp [modInv, euclid] at h
  · by_cases hgcd : Int.gcd a m = 1
    · obtain ⟨r, hr, hlt, -⟩ := (modInv_spec a m hm.ne').1 hgcd
      rw [hr] at h
      exact Option.some.inj h ▸ hlt
    · rw [(modInv_spec a m hm.ne').2 hgcd] at h
      cases h

/-- PointAdd stays within the range of R452. -/
theorem pointAdd_inRange {c : Curve} (hp : c.p ≠ 0) {P Q R : Point} (hP : P.inRange c = true) (hQ : Q.inRange c = true)
    (h : pointAdd c P Q = some R) : R.inRange c = true := by
  cases P with
  | identity => cases Q <;> exact Option.some.inj h ▸ hQ
  | affine x1 y1 =>
    cases Q with
    | identity => exact Option.some.inj h ▸ hP
    | affine x2 y2 =>
      simp only [pointAdd] at h
      split at h
      · cases h; rfl
      · split at h
        · cases h
        · cases h; simp [Point.inRange, residue hp]

theorem scan_inRange {c : Curve} (hp : c.p ≠ 0) (k : Nat) {R : Point} :
    ∀ (n i : Nat) {acc run : Point}, acc.inRange c = true → run.inRange c = true → scan c k n i acc run = some R →
      R.inRange c = true := by
  intro n
  induction n with
  | zero => intro i acc run hacc _ h; exact Option.some.inj h ▸ hacc
  | succ n ih =>
    intro i acc run hacc hrun h
    simp only [scan] at h
    split at h
    · cases h
    · next acc' hacc' =>
      split at h
      · cases h
      · next run' hrun' =>
        refine ih (i + 1) ?_ (pointAdd_inRange hp hrun hrun hrun') h
        split at hacc'
        · exact pointAdd_inRange hp hacc hrun hacc'
        · exact Option.some.inj hacc' ▸ hacc

/-- ScalarMult stays within the range of R452. -/
theorem scalarMult_inRange {c : Curve} (hp : c.p ≠ 0) {k : Nat} {P R : Point} (hP : P.inRange c = true)
    (h : scalarMult c k P = some R) : R.inRange c = true := scan_inRange hp k _ _ rfl hP h

/-- A prime of GenPrime has at most the requested bits (R513). -/
theorem genPrime_lt {bits : Nat} (hbits : bits ≠ 0) :
    ∀ (fuel : Nat) {g g' : RandomSource} {c : Nat}, genPrime bits fuel g = some (c, g') → c < 2 ^ bits := by
  intro fuel
  induction fuel with
  | zero => intro g g' c h; cases h
  | succ fuel ih =>
    intro g g' c h
    simp only [genPrime] at h
    split at h
    · cases h
      exact Nat.or_lt_two_pow (RandomSource.drawBits_lt bits g) (Nat.pow_lt_pow_right (by omega) (by omega))
    · exact ih h

/-- A key of RsaKeygen (R517): its modulus has at most the requested bits, and its exponent d lies below it. -/
theorem rsaKeygen_key_lt {bits fuel n e d : Nat} {g g' : RandomSource} (hbits : 4 ≤ bits)
    (h : rsaKeygen bits fuel g = some (.key n e d, g')) : n < 2 ^ bits ∧ d < 2 ^ bits ∧ e = Config.rsaE := by
  simp only [rsaKeygen] at h
  split at h
  · cases h
  · next p g1 hp =>
    split at h
    · cases h
    · next q g2 hq =>
      have hpq : p * q < 2 ^ bits := calc
        p * q < 2 ^ (bits / 2) * 2 ^ (bits / 2) :=
          Nat.mul_lt_mul'' (genPrime_lt (by omega) _ hp) (genPrime_lt (by omega) _ hq)
        _ = 2 ^ (bits / 2 + bits / 2) := (pow_add _ _ _).symm
        _ ≤ 2 ^ bits := Nat.pow_le_pow_right (by omega) (by omega)
      have hkey : keyOf p q = .key n e d := congrArg Prod.fst (Option.some.inj h)
      simp only [keyOf] at hkey
      split at hkey
      · cases hkey
      · split at hkey
        · cases hkey
        · next hd =>
          cases hkey
          have hle : (p - 1) * (q - 1) ≤ p * q := Nat.mul_le_mul (Nat.sub_le _ _) (Nat.sub_le _ _)
          exact ⟨hpq, (modInv_lt hd).trans_le (hle.trans hpq.le), rfl⟩

/-! ### Operand registers and DMEM within their bounds -/

/-- The clauses of `Inv` on the configuration, the operand registers and DMEM. -/
structure WellStored (s : State) : Prop where
  config : wellFormedConfig s.cfg
  values : ∀ r : Reg, s.reg r < 2 ^ s.cfg.opw
  canonical : Memory.wf s.dmem = true
  inDmem : ∀ a, s.cfg.dmemBytes ≤ a → s.dmem.read a = none

namespace WellStored

variable {s : State}

theorem congr {t : State} (h : WellStored s) (hcfg : t.cfg = s.cfg) (hx : t.x = s.x) (hdmem : t.dmem = s.dmem) :
    WellStored t where
  config := hcfg ▸ h.config
  values r := by simpa [State.reg, hcfg, hx] using h.values r
  canonical := hdmem ▸ h.canonical
  inDmem a ha := by rw [hdmem]; exact h.inDmem a (hcfg ▸ ha)

theorem curve (h : WellStored s) : curveOk s.cfg.curve := h.config.2

theorem sizes (h : WellStored s) : sizesOk s.cfg := h.config.1

theorem p_ne_zero (h : WellStored s) : s.cfg.curve.p ≠ 0 := h.curve.1.ne_zero

/-- A field element fits an operand register (R8). -/
theorem p_le (h : WellStored s) : s.cfg.curve.p ≤ 2 ^ s.cfg.opw := by
  obtain ⟨-, -, -, hbitlen, -⟩ := h.sizes
  exact (lt_two_pow_bitlen _).le.trans (Nat.pow_le_pow_right (by omega) hbitlen)

/-- A scalar fits an operand register (R8). -/
theorem scalar_le (h : WellStored s) : 2 ^ Config.scalarBits ≤ 2 ^ s.cfg.opw := by
  obtain ⟨-, hopw, -⟩ := h.sizes
  exact Nat.pow_le_pow_right (by omega) hopw

theorem toNat_lt (h : WellStored s) (b : Bool) : b.toNat < 2 ^ s.cfg.opw :=
  lt_of_lt_of_le (b.toNat_lt.trans (by decide)) h.scalar_le

theorem mod_reg_lt (h : WellStored s) {r : Reg} (hr : s.reg r ≠ 0) (v : Nat) : v % s.reg r < 2 ^ s.cfg.opw :=
  (Nat.mod_lt v (Nat.pos_of_ne_zero hr)).trans (h.values r)

theorem mod_p_lt (h : WellStored s) (v : Nat) : v % s.cfg.curve.p < 2 ^ s.cfg.opw :=
  (Nat.mod_lt v (Nat.pos_of_ne_zero h.p_ne_zero)).trans_le h.p_le

theorem basePoint_inRange (h : WellStored s) : (basePoint s.cfg.curve).inRange s.cfg.curve = true := by
  obtain ⟨-, -, -, -, -, -, hx, hy, -⟩ := h.curve
  simp [basePoint, Point.inRange, hx, hy]

/-- A drawn scalar fits an operand register (R481, R483). -/
theorem drawn_scalar_lt (h : WellStored s) (g : RandomSource) :
    (g.drawRange 1 (s.cfg.curve.n - 1)).1 < 2 ^ s.cfg.opw := by
  obtain ⟨-, -, -, -, -, -, -, -, -, -, hn, hscalar, -⟩ := h.curve
  exact ((RandomSource.drawRange_mem (by omega) g).2.trans_lt hscalar).trans_le h.scalar_le

theorem setReg (h : WellStored s) (r : Reg) {v : Nat} (hv : v < 2 ^ s.cfg.opw) : WellStored (s.setReg r v) where
  config := h.config
  values q := by
    rw [State.reg_setReg]
    split
    · exact hv
    · exact h.values q
  canonical := h.canonical
  inDmem := h.inDmem

theorem writePoint (h : WellStored s) (j : Pair) {p : Point} (hp : p.inRange s.cfg.curve = true) :
    WellStored (s.writePoint j p) := by
  cases p with
  | identity =>
    exact ((h.setReg _ (Nat.two_pow_pos _)).setReg _ (Nat.two_pow_pos _)).congr rfl rfl rfl
  | affine x y =>
    simp only [Point.inRange, Bool.and_eq_true, decide_eq_true_eq] at hp
    obtain ⟨hx, hy⟩ := hp
    exact ((h.setReg _ (hx.trans_le h.p_le)).setReg _ (hy.trans_le h.p_le)).congr rfl rfl rfl

/-- A string stored within DMEM_BYTES keeps DMEM canonical and empty above (R205, R206). -/
theorem writeBytes (h : WellStored s) {a : Nat} {out : List Byte} (hfits : a + out.length ≤ s.cfg.dmemBytes) :
    WellStored { s with dmem := s.dmem.writeBytes a out } where
  config := h.config
  values := h.values
  canonical := Memory.wf_writeBytes h.canonical a out
  inDmem b hb := by
    have hout : a + out.length ≤ b := hfits.trans hb
    exact (Memory.read_writeBytes_of_outside _ _ _ (by omega)).trans (h.inDmem b hb)

theorem storeOutput (h : WellStored s) {out : List Byte}
    (hfits : s.desc.addrD.toNat + out.length ≤ s.cfg.dmemBytes) : WellStored (s.storeOutput out) :=
  (h.writeBytes hfits).congr rfl rfl rfl

end WellStored

/-! ### The destinations of a command -/

/-- The pair a command writes as a point, if its row has one (R302, R103). -/
def pairDestination : Instr → Option Pair
  | .ecAdd rd _ _ => some (pairOf rd)
  | .ecDbl rd _ => some (pairOf rd)
  | .ecSmul rd _ _ => some (pairOf rd)
  | .egKeygen _ rb => some (pairOf rb)
  | .egEnc rd _ _ _ => some (pairOf rd)
  | _ => none

/-- The commands that store an output string in DMEM (R114). -/
def storesOutput : Instr → Bool
  | .rsaSign _ _ => true
  | .salsaQr => true
  | .salsaBlock => true
  | .salsaKs => true
  | .salsaXor => true
  | .ofbEnc => true
  | .ofbDec => true
  | _ => false

/-- State `t` is what command `i` can commit from `s`: sources read and draws made, then destinations written that the
command has, each with a value that fits it where the values before did. -/
inductive Writes (i : Instr) (s : State) : State → Prop
  | noted {t : State} (h : Noted s t) : Writes i s t
  | setReg {t : State} (h : Writes i s t) (r : Reg) {v : Nat} (hv : WellStored s → v < 2 ^ s.cfg.opw) :
      Writes i s (t.setReg r v)
  | writePoint {t : State} (h : Writes i s t) {j : Pair} (hj : pairDestination i = some j) {p : Point}
      (hp : WellStored s → p.inRange s.cfg.curve = true) : Writes i s (t.writePoint j p)
  | storeOutput {t : State} (h : Writes i s t) (hi : storesOutput i = true) {out : List Byte}
      (hfits : s.desc.addrD.toNat + out.length ≤ s.cfg.dmemBytes) : Writes i s (t.storeOutput out)

namespace Writes

variable {i : Instr} {s t : State}

theorem kept (h : Writes i s t) : Kept s t := by
  induction h with
  | noted h => exact h.toKept
  | setReg _ r _ ih => exact ih.trans (State.setReg_kept _ _ _)
  | writePoint _ _ _ ih => exact ih.trans (State.writePoint_kept _ _ _)
  | storeOutput _ _ _ ih => exact ih.trans (State.storeOutput_kept _ _)

theorem wellStored (h : Writes i s t) (hs : WellStored s) : WellStored t := by
  induction h with
  | noted h => exact hs.congr h.cfg h.x h.dmem
  | setReg h r hv ih => exact ih.setReg r (h.kept.cfg ▸ hv hs)
  | writePoint h _ hp ih => exact ih.writePoint _ (h.kept.cfg ▸ hp hs)
  | storeOutput h _ hfits ih =>
    refine ih.storeOutput ?_
    rw [h.kept.desc, h.kept.cfg]
    exact hfits

/-- A command changes the identity tag of its pair destination alone (R104). -/
theorem isIdentity (h : Writes i s t) {j : Pair} (hj : pairDestination i ≠ some j) :
    t.isIdentity j = s.isIdentity j := by
  induction h with
  | noted h => rw [State.isIdentity, h.tag, State.isIdentity]
  | setReg _ _ _ ih => exact ih
  | writePoint _ hj' _ ih =>
    rw [State.isIdentity_writePoint, if_neg (fun heq : j = _ => hj (heq ▸ hj'))]
    exact ih
  | storeOutput _ _ _ ih => exact ih

/-- A command that stores no output changes neither DMEM nor a descriptor (R113, R114). -/
theorem desc_dmem (h : Writes i s t) (hi : storesOutput i = false) : t.desc = s.desc ∧ t.dmem = s.dmem := by
  induction h with
  | noted h => exact ⟨h.descriptors, h.dmem⟩
  | setReg _ _ _ ih => exact ih
  | writePoint _ _ _ ih => simpa using ih
  | storeOutput _ hi' _ _ => exact absurd hi' (hi ▸ Bool.false_ne_true)

end Writes

/-- What a command's result commits is reached by its own writes. -/
def CmdResult.Commits (i : Instr) (s : State) : CmdResult → Prop
  | .commit t => Writes i s t
  | .raise _ _ => True
  | .searching => True

/-! ### What each command commits -/

section
variable (s : State)

theorem cmdMontMul_commits (rd ra rb rc : Reg) : (cmdMontMul rd ra rb rc s).Commits (.montMul rd ra rb rc) s := by
  simp only [cmdMontMul]
  split
  · trivial
  · next hodd =>
    split
    · trivial
    · exact .setReg (.noted (State.noteRegs_noted _ _)) rd fun hs => hs.mod_reg_lt (by omega) _

theorem cmdModMul_commits (rd ra rb rc : Reg) : (cmdModMul rd ra rb rc s).Commits (.modMul rd ra rb rc) s := by
  simp only [cmdModMul]
  split
  · trivial
  · next hm => exact .setReg (.noted (State.noteRegs_noted _ _)) rd fun hs => hs.mod_reg_lt hm _

theorem cmdModExp_commits (rd ra rb rc : Reg) : (cmdModExp rd ra rb rc s).Commits (.modExp rd ra rb rc) s := by
  simp only [cmdModExp]
  split
  · trivial
  · next hm =>
    exact .setReg (.noted (State.noteRegs_noted _ _)) rd fun hs => modExp_eq _ _ _ hm ▸ hs.mod_reg_lt hm _

theorem cmdModInv_commits (rd ra rc : Reg) : (cmdModInv rd ra rc s).Commits (.modInv rd ra rc) s := by
  simp only [cmdModInv]
  split
  · trivial
  · split
    · trivial
    · next hv =>
      exact .setReg (.noted (State.noteRegs_noted _ _)) rd fun hs => (modInv_lt hv).trans (hs.values rc)

theorem cmdEcOnCurve_commits (rd ra : Reg) : (cmdEcOnCurve rd ra s).Commits (.ecOnCurve rd ra) s := by
  simp only [cmdEcOnCurve]
  split
  · trivial
  · split
    · trivial
    · exact .setReg (.noted (State.notePoint_noted _ _)) rd fun hs => hs.toNat_lt _

/-- The end of EC_ADD, EC_DBL and EC_SMUL (R460, R462, R464). -/
theorem writeResult_commits {s t : State} {i : Instr} {j : Pair} {r : Option Point} (h : Noted s t)
    (hj : pairDestination i = some j) (hr : ∀ p, r = some p → WellStored s → p.inRange s.cfg.curve = true) :
    (writeResult j t r).Commits i s := by
  cases r with
  | none => trivial
  | some p => exact .writePoint (.noted h) hj (hr p rfl)

theorem cmdEcAdd_commits (rd ra rb : Reg) : (cmdEcAdd rd ra rb s).Commits (.ecAdd rd ra rb) s := by
  simp only [cmdEcAdd]
  split
  · trivial
  · split
    · trivial
    · next hrange =>
      simp only [State.notePoint_cfg, Bool.not_eq_true', Bool.not_eq_false, Bool.and_eq_true] at hrange ⊢
      obtain ⟨hp, hq⟩ := hrange
      exact writeResult_commits ((State.notePoint_noted _ _).trans (State.notePoint_noted _ _)) rfl
        fun _ hr hs => pointAdd_inRange hs.p_ne_zero hp hq hr

theorem cmdEcDbl_commits (rd ra : Reg) : (cmdEcDbl rd ra s).Commits (.ecDbl rd ra) s := by
  simp only [cmdEcDbl]
  split
  · trivial
  · split
    · trivial
    · next hrange =>
      simp only [State.notePoint_cfg, Bool.not_eq_true', Bool.not_eq_false] at hrange ⊢
      exact writeResult_commits (State.notePoint_noted _ _) rfl
        fun _ hr hs => pointAdd_inRange hs.p_ne_zero hrange hrange hr

theorem cmdEcSmul_commits (rd ra rb : Reg) : (cmdEcSmul rd ra rb s).Commits (.ecSmul rd ra rb) s := by
  simp only [cmdEcSmul]
  split
  · trivial
  · split
    · trivial
    · next hrange =>
      split
      · trivial
      · simp only [State.notePoint_cfg, State.noteRegs_cfg, Bool.not_eq_true', Bool.not_eq_false] at hrange ⊢
        exact writeResult_commits ((State.noteRegs_noted _ _).trans (State.notePoint_noted _ _)) rfl
          fun _ hr hs => scalarMult_inRange hs.p_ne_zero hrange hr

theorem cmdEgKeygen_commits (rd rb : Reg) : (cmdEgKeygen rd rb s).Commits (.egKeygen rd rb) s := by
  simp only [cmdEgKeygen]
  split
  · trivial
  · split
    · trivial
    · split
      · trivial
      · next hq =>
        exact .writePoint (.setReg (.noted (State.setRng_noted _ _)) rd fun hs => hs.drawn_scalar_lt _) rfl
          fun hs => scalarMult_inRange hs.p_ne_zero hs.basePoint_inRange hq

theorem egEncResult_commits {s t : State} (rd ra rb rc : Reg) (m : Nat) {c1 : Point} (h : Noted s t)
    (hc1 : WellStored s → c1.inRange s.cfg.curve = true) (secret : Point) :
    (egEncResult rd rc m c1 t secret).Commits (.egEnc rd ra rb rc) s := by
  cases secret with
  | identity => trivial
  | affine sx sy =>
    simp only [egEncResult]
    split
    · trivial
    · exact .setReg (.writePoint (.noted h) rfl hc1) rc fun hs => by rw [h.cfg]; exact hs.mod_p_lt _

theorem cmdEgEnc_commits (rd ra rb rc : Reg) : (cmdEgEnc rd ra rb rc s).Commits (.egEnc rd ra rb rc) s := by
  simp only [cmdEgEnc]
  split
  · trivial
  · split
    · trivial
    · split
      · trivial
      · split
        · trivial
        · split
          · trivial
          · next hc1 =>
            split
            · trivial
            · simp only [State.setRng_cfg, State.noteRegs_cfg, State.notePoint_cfg] at hc1
              refine egEncResult_commits rd ra rb rc _ ?_
                (fun hs => scalarMult_inRange hs.p_ne_zero hs.basePoint_inRange hc1) _
              exact ((State.notePoint_noted _ _).trans (State.noteRegs_noted _ _)).trans (State.setRng_noted _ _)

theorem egDecResult_commits {s t : State} (rd ra rb rc : Reg) (c2 : Nat) (h : Noted s t) (secret : Point) :
    (egDecResult rd c2 t secret).Commits (.egDec rd ra rb rc) s := by
  cases secret with
  | identity => trivial
  | affine sx sy =>
    simp only [egDecResult]
    split
    · trivial
    · exact .setReg (.noted h) rd fun hs => by rw [h.cfg]; exact hs.mod_p_lt _

theorem cmdEgDec_commits (rd ra rb rc : Reg) : (cmdEgDec rd ra rb rc s).Commits (.egDec rd ra rb rc) s := by
  simp only [cmdEgDec]
  split
  · trivial
  · split
    · trivial
    · split
      · trivial
      · split
        · trivial
        · exact egDecResult_commits rd ra rb rc _
            (((State.noteRegs_noted _ _).trans (State.notePoint_noted _ _)).trans (State.noteRegs_noted _ _)) _

theorem cmdRsaPrimeTest_commits (rd ra : Reg) (aux : Fin 16) :
    (cmdRsaPrimeTest rd ra aux s).Commits (.rsaPrimeTest rd ra aux) s :=
  .setReg (.noted ((State.noteRegs_noted _ _).trans (State.setRng_noted _ _))) rd fun hs => hs.toNat_lt _

theorem cmdRsaGenPrime_commits (rd ra : Reg) : (cmdRsaGenPrime rd ra s).Commits (.rsaGenPrime rd ra) s := by
  simp only [cmdRsaGenPrime]
  split
  · trivial
  · next hbits =>
    simp only [State.noteRegs_cfg] at hbits
    split
    · trivial
    · next hc =>
      exact .setReg (.noted ((State.noteRegs_noted _ _).trans (State.setRng_noted _ _))) rd fun _ =>
        (genPrime_lt (by omega) _ hc).trans_le (Nat.pow_le_pow_right (by omega) (by omega))

theorem cmdRsaKeygen_commits (rd ra rb rc : Reg) : (cmdRsaKeygen rd ra rb rc s).Commits (.rsaKeygen rd ra rb rc) s := by
  simp only [cmdRsaKeygen]
  split
  · trivial
  · split
    · trivial
    · next hbits =>
      simp only [State.noteRegs_cfg] at hbits
      split
      · trivial
      · trivial
      · next hkey =>
        obtain ⟨hn, hd, he⟩ := rsaKeygen_key_lt (by omega) hkey
        have hle : 2 ^ s.reg ra ≤ 2 ^ s.cfg.opw := Nat.pow_le_pow_right (by omega) (by omega)
        refine .setReg (.setReg (.setReg (.noted ?_) rd fun _ => hn.trans_le hle) rb fun _ => hd.trans_le hle) rc
          fun hs => lt_of_lt_of_le (he ▸ by decide) hs.scalar_le
        exact (State.noteRegs_noted _ _).trans (State.setRng_noted _ _)

theorem cmdRsaSign_commits (ra rb : Reg) : (cmdRsaSign ra rb s).Commits (.rsaSign ra rb) s := by
  simp only [cmdRsaSign]
  split
  · trivial
  · next hfits =>
    split
    · trivial
    · next hn =>
      refine .storeOutput (.noted ((State.noteRegs_noted _ _).trans (State.noteMem_noted _ _))) rfl ?_
      simp only [Bool.not_eq_true', Bool.not_eq_false, Bool.and_eq_true] at hfits
      exact (Nat.add_le_add_left (sign_length_le hn _ _) _).trans (of_decide_eq_true hfits.2)

theorem cmdRsaVerify_commits (rd ra rb : Reg) : (cmdRsaVerify rd ra rb s).Commits (.rsaVerify rd ra rb) s := by
  simp only [cmdRsaVerify]
  split
  · trivial
  · split
    · trivial
    · exact .setReg (.noted ((State.noteRegs_noted _ _).trans (State.noteMem_noted _ _))) rd fun hs => hs.toNat_lt _

/-- A stored output of the length that the region check admitted (R206) fits DMEM. -/
theorem Writes.output {s : State} {i : Instr} (hi : storesOutput i = true) {out : List Byte} {n : Nat}
    (hn : out.length = n) (hfits : s.fits (s.regionD n) = true) (rs : List Region) :
    Writes i s ((s.noteMem rs).storeOutput out) :=
  .storeOutput (.noted (State.noteMem_noted s rs)) hi (hn ▸ of_decide_eq_true hfits)

theorem cmdSalsaQr_commits : (cmdSalsaQr s).Commits .salsaQr s := by
  simp only [cmdSalsaQr]
  split
  · trivial
  · next hfits =>
    simp only [Bool.not_eq_true', Bool.not_eq_false, Bool.and_eq_true] at hfits
    exact Writes.output rfl (by simp [Quad.words]) hfits.2 _

theorem cmdSalsaBlock_commits : (cmdSalsaBlock s).Commits .salsaBlock s := by
  simp only [cmdSalsaBlock]
  split
  · trivial
  · next hfits =>
    simp only [Bool.not_eq_true', Bool.not_eq_false, Bool.and_eq_true] at hfits
    exact Writes.output rfl (core64_length _) hfits.2 _

theorem cmdSalsaKs_commits : (cmdSalsaKs s).Commits .salsaKs s := by
  simp only [cmdSalsaKs]
  split
  · trivial
  · split
    · trivial
    · next hfits =>
      simp only [Bool.not_eq_true', Bool.not_eq_false, Bool.and_eq_true] at hfits
      exact Writes.output rfl (keystream_length _ _ _) hfits.2 _

/-- The commands of R562, R591 and R593: their ciphers keep the length of the data. -/
theorem cmdStream_commits {i : Instr} (hi : storesOutput i = true)
    {cipher : List Byte → List Byte → List Byte → List Byte}
    (hlen : ∀ key nonce data, (cipher key nonce data).length = data.length) : (cmdStream cipher s).Commits i s := by
  simp only [cmdStream]
  split
  · trivial
  · split
    · trivial
    · next hfits =>
      simp only [Bool.not_eq_true', Bool.not_eq_false, Bool.and_eq_true] at hfits
      exact Writes.output hi ((hlen _ _ _).trans (State.memRead_length _ _)) hfits.2 _

end

/-- Every command commits its own destinations, within their bounds. -/
theorem commandResult_commits (i : Instr) (s : State) : (commandResult s i).Commits i s := by
  cases i with
  | nop => exact .noted (Noted.refl s)
  | montMul rd ra rb rc => exact cmdMontMul_commits s rd ra rb rc
  | modMul rd ra rb rc => exact cmdModMul_commits s rd ra rb rc
  | modExp rd ra rb rc => exact cmdModExp_commits s rd ra rb rc
  | modInv rd ra rc => exact cmdModInv_commits s rd ra rc
  | ecAdd rd ra rb => exact cmdEcAdd_commits s rd ra rb
  | ecDbl rd ra => exact cmdEcDbl_commits s rd ra
  | ecSmul rd ra rb => exact cmdEcSmul_commits s rd ra rb
  | ecOnCurve rd ra => exact cmdEcOnCurve_commits s rd ra
  | egKeygen rd rb => exact cmdEgKeygen_commits s rd rb
  | egEnc rd ra rb rc => exact cmdEgEnc_commits s rd ra rb rc
  | egDec rd ra rb rc => exact cmdEgDec_commits s rd ra rb rc
  | rsaPrimeTest rd ra aux => exact cmdRsaPrimeTest_commits s rd ra aux
  | rsaGenPrime rd ra => exact cmdRsaGenPrime_commits s rd ra
  | rsaKeygen rd ra rb rc => exact cmdRsaKeygen_commits s rd ra rb rc
  | rsaSign ra rb => exact cmdRsaSign_commits s ra rb
  | rsaVerify rd ra rb => exact cmdRsaVerify_commits s rd ra rb
  | salsaQr => exact cmdSalsaQr_commits s
  | salsaBlock => exact cmdSalsaBlock_commits s
  | salsaKs => exact cmdSalsaKs_commits s
  | salsaXor => exact cmdStream_commits s rfl streamXor_length
  | ofbEnc => exact cmdStream_commits s rfl ofb_length
  | ofbDec => exact cmdStream_commits s rfl ofb_length

end Sys2Proof.Machine
end

section
/-! What a host access reaches and what it can change (20_memory.md R200 to R204, R207; 10_state.md R105). -/

namespace Sys2Proof.Machine

open Sys2Proof

/-! ### The map of the host interface space -/

/-- The offset of a descriptor register (R105). -/
def descOffset : DescName → Word
  | .addrA => 0x020#32
  | .lenA => 0x024#32
  | .addrB => 0x028#32
  | .lenB => 0x02C#32
  | .addrK => 0x030#32
  | .lenK => 0x034#32
  | .addrN => 0x038#32
  | .lenN => 0x03C#32
  | .addrD => 0x040#32
  | .lenD => 0x044#32

/-- The one offset of a register of the page (R105); the windows of R201 have none. -/
def pageOffset : Target → Option Word
  | .cmd => some 0x000#32
  | .status => some 0x004#32
  | .errcode => some 0x008#32
  | .ctrl => some 0x00C#32
  | .inf => some 0x010#32
  | .osel => some 0x014#32
  | .caps => some 0x018#32
  | .descriptor n => some (descOffset n)
  | .operandWord _ => none
  | .dmemWord _ => none
  | .unmapped => none

/-- A register of the page is reached at its offset, by a 32-bit access (R105, R202). -/
theorem reach_pageOffset (c : Config) {tgt : Target} {off : Word} (h : pageOffset tgt = some off) :
    reach c 32 off = tgt := by
  cases tgt with
  | descriptor n => cases h; cases n <;> rfl
  | operandWord w => cases h
  | dmemWord a => cases h
  | unmapped => cases h
  | _ => cases h; rfl

theorem target_pageOffset {c : Config} {n : Nat} {off : Word} (h : pageOffset (target c n) = some off) :
    n = off.toNat := by
  unfold target at h
  split at h
  · split at h <;> cases h <;> rfl
  · split at h
    · cases h
    · split at h <;> cases h

/-- A register of the page is reached at its offset only, by a 32-bit access (R105, R202). -/
theorem reach_inv {c : Config} {bits : Nat} {off off' : Word} {tgt : Target} (h : reach c bits off = tgt)
    (hoff : pageOffset tgt = some off') : bits = 32 ∧ off = off' := by
  subst h
  unfold reach at hoff
  split at hoff
  · next hsupported => exact ⟨hsupported.1, BitVec.eq_of_toNat_eq (target_pageOffset hoff)⟩
  · cases hoff

/-- Word w of the operand window lies within the register's OPW bits (R201, R203). -/
theorem reach_eq_operandWord {c : Config} {bits w : Nat} {off : Word} (h : reach c bits off = .operandWord w) :
    4 * w < c.opw / 8 := by
  unfold reach target at h
  split at h
  · split at h
    · split at h <;> cases h
    · split at h
      · cases h; omega
      · split at h <;> cases h
  · cases h

theorem reach_eq_dmemWord {c : Config} {bits a : Nat} {off : Word} (h : reach c bits off = .dmemWord a) :
    a % 4 = 0 ∧ a < c.dmemBytes := by
  unfold reach target at h
  split at h
  · split at h
    · split at h <;> cases h
    · split at h
      · cases h
      · split at h
        · have := Target.dmemWord.inj h
          omega
        · cases h
  · cases h

/-! ### Window words of an operand register -/

/-- Bit i of a window word is bit 32w + i of the register (R102). -/
theorem windowWord_getLsbD (v w i : Nat) :
    (windowWord v w).getLsbD i = (decide (i < 32) && v.testBit (32 * w + i)) := by
  rw [windowWord, BitVec.getLsbD_ofNat, Nat.testBit_div_two_pow, Nat.add_comm]

/-- The parts of a register with one word replaced, highest first. -/
theorem setWindowWord_eq (v w : Nat) (d : Word) :
    setWindowWord v w d = 2 ^ (32 * w) * (2 ^ 32 * (v / 2 ^ (32 * (w + 1))) + d.toNat) + v % 2 ^ (32 * w) := by
  have hpow : (2 : Nat) ^ (32 * (w + 1)) = 2 ^ (32 * w) * 2 ^ 32 := by rw [← pow_add]; congr 1
  rw [setWindowWord, hpow]
  ring

/-- Exactly the bits 32w+31 : 32w are replaced (R102). -/
theorem setWindowWord_testBit (v w : Nat) (d : Word) (i : Nat) :
    (setWindowWord v w d).testBit i =
      if 32 * w ≤ i ∧ i < 32 * (w + 1) then d.getLsbD (i - 32 * w) else v.testBit i := by
  rw [setWindowWord_eq, Nat.testBit_two_pow_mul_add _ (Nat.mod_lt _ (Nat.two_pow_pos _)),
    Nat.testBit_two_pow_mul_add _ d.isLt]
  by_cases hlow : i < 32 * w
  · rw [if_pos hlow, if_neg (by omega), Nat.testBit_mod_two_pow]
    simp [hlow]
  · rw [if_neg hlow]
    by_cases hword : i < 32 * (w + 1)
    · rw [if_pos (by omega), if_pos (by omega)]
      rfl
    · rw [if_neg (by omega), if_neg (by omega), Nat.testBit_div_two_pow]
      congr 1
      omega

/-- Every other window word is as it was (R102). -/
theorem windowWord_setWindowWord_of_ne (x : Nat) {v w : Nat} (d : Word) (h : v ≠ w) :
    windowWord (setWindowWord x w d) v = windowWord x v := by
  apply BitVec.eq_of_getLsbD_eq
  intro i hi
  rw [windowWord_getLsbD, windowWord_getLsbD, setWindowWord_testBit, if_neg (by omega)]

/-- A window write stays within the register's width (R100, R203). -/
theorem setWindowWord_lt {v w n : Nat} (d : Word) (hv : v < 2 ^ n) (hw : 32 * (w + 1) ≤ n) :
    setWindowWord v w d < 2 ^ n := by
  apply Nat.lt_pow_two_of_testBit
  intro i hi
  rw [setWindowWord_testBit, if_neg (by omega)]
  exact Nat.testBit_lt_two_pow (hv.trans_le (Nat.pow_le_pow_right (by omega) hi))

theorem valueOfWords_lt (f : Nat → Word) (n : Nat) : valueOfWords f n < 2 ^ (32 * n) := by
  induction n with
  | zero => simp [valueOfWords]
  | succ n ih =>
    have hpow : (2 : Nat) ^ (32 * (n + 1)) = 2 ^ (32 * n) * 2 ^ 32 := by rw [← pow_add]; congr 1
    calc valueOfWords f n + (f n).toNat * 2 ^ (32 * n)
      _ < 2 ^ (32 * n) + (f n).toNat * 2 ^ (32 * n) := Nat.add_lt_add_right ih _
      _ = ((f n).toNat + 1) * 2 ^ (32 * n) := by ring
      _ ≤ 2 ^ 32 * 2 ^ (32 * n) := Nat.mul_le_mul_right _ (f n).isLt
      _ = 2 ^ (32 * (n + 1)) := by rw [hpow, Nat.mul_comm]

/-! ### Host accesses -/

/-- A host read changes at most what it returned, the record of UNWRITTEN_READ, the count of free values, and BUSERR
(R202, R210). -/
theorem hostRead_cases (bits : Nat) (off : Word) (s : State) :
    ∃ (r : Option Word) (n : Nat) (u b : Bool), (s.unwrittenRead = true → u = true) ∧
      hostRead bits off s =
        { s with readData := r, stamp := n, unwrittenRead := u, status := { s.status with buserr := b } } := by
  have hreturns (w : Word) : ∃ (r : Option Word) (n : Nat) (u b : Bool), (s.unwrittenRead = true → u = true) ∧
      s.returns w =
        { s with readData := r, stamp := n, unwrittenRead := u, status := { s.status with buserr := b } } :=
    ⟨_, _, _, _, id, rfl⟩
  unfold hostRead
  cases reach s.cfg bits off with
  | operandWord w =>
    dsimp only
    split
    · exact ⟨_, _, _, _, id, rfl⟩
    · split
      · exact hreturns _
      · exact ⟨_, _, true, _, fun _ => rfl, rfl⟩
  | dmemWord a =>
    dsimp only
    split
    · exact ⟨_, _, _, _, id, rfl⟩
    · split
      · exact hreturns _
      · exact ⟨_, _, true, _, fun _ => rfl, rfl⟩
  | unmapped => exact ⟨_, _, _, true, id, rfl⟩
  | _ => exact hreturns _

@[simp] theorem State.writeOperandWord_cfg (s : State) (r : Reg) (w : Nat) (d : Word) :
    (s.writeOperandWord r w d).cfg = s.cfg := by
  unfold State.writeOperandWord; split <;> rfl

@[simp] theorem State.writeOperandWord_status (s : State) (r : Reg) (w : Nat) (d : Word) :
    (s.writeOperandWord r w d).status = s.status := by
  unfold State.writeOperandWord; split <;> rfl

@[simp] theorem State.writeOperandWord_errcode (s : State) (r : Reg) (w : Nat) (d : Word) :
    (s.writeOperandWord r w d).errcode = s.errcode := by
  unfold State.writeOperandWord; split <;> rfl

@[simp] theorem State.writeOperandWord_tag (s : State) (r : Reg) (w : Nat) (d : Word) :
    (s.writeOperandWord r w d).tag = s.tag := by
  unfold State.writeOperandWord; split <;> rfl

@[simp] theorem State.writeOperandWord_unwrittenRead (s : State) (r : Reg) (w : Nat) (d : Word) :
    (s.writeOperandWord r w d).unwrittenRead = s.unwrittenRead := by
  unfold State.writeOperandWord; split <;> rfl

/-- What a host write can do (R106 to R113, R202 to R204, R207, R701). -/
inductive HostWrites (bits : Nat) (off data : Word) (s : State) : State → Prop
  /-- A sticky bit is set (OVR, HAZ, BUSERR), STATUS bits are cleared, or the write is ignored. -/
  | status (st : Status) (hbusy : st.busy = s.status.busy) (hdone : st.done = true → s.status.done = true)
      (herr : st.err = true → s.status.err = true) : HostWrites bits off data s { s with status := st }
  | accept : HostWrites bits off data s (s.accept data)
  | softReset (hreach : reach s.cfg bits off = .ctrl) (hsrst : data.getLsbD 1 = true) :
      HostWrites bits off data s s.hardwareReset
  | inf (hreach : reach s.cfg bits off = .inf) (tag : BitVec 16) : HostWrites bits off data s { s with tag := tag }
  | control (ie : Bool) (osel : Reg) (desc : Descriptors) :
      HostWrites bits off data s { s with ie := ie, osel := osel, desc := desc }
  | operandWord {w : Nat} (hreach : reach s.cfg bits off = .operandWord w) :
      HostWrites bits off data s (s.writeOperandWord s.osel w data)
  | dmemWord {a : Nat} (hreach : reach s.cfg bits off = .dmemWord a) :
      HostWrites bits off data s { s with dmem := s.dmem.writeWord a data }

theorem hostWrite_writes (bits : Nat) (off data : Word) (s : State) :
    HostWrites bits off data s (hostWrite bits off data s) := by
  have hdropped : HostWrites bits off data s s.dropped := .status _ rfl id id
  unfold hostWrite
  cases hreach : reach s.cfg bits off with
  | cmd =>
    dsimp only
    split
    · exact .status _ rfl id id
    · exact .accept
  | status => exact .status _ rfl Bool.and_elim_left Bool.and_elim_left
  | errcode => exact .status s.status rfl id id
  | ctrl =>
    dsimp only
    split
    · next hsrst => exact .softReset hreach hsrst
    · exact .control _ s.osel s.desc
  | inf =>
    dsimp only
    split
    · exact hdropped
    · exact .inf hreach _
  | osel => exact .control s.ie _ s.desc
  | caps => exact .status s.status rfl id id
  | descriptor n =>
    dsimp only
    split
    · exact hdropped
    · exact .control s.ie s.osel _
  | operandWord w =>
    dsimp only
    split
    · exact hdropped
    · exact .operandWord hreach
  | dmemWord a =>
    dsimp only
    split
    · exact hdropped
    · exact .dmemWord hreach
  | unmapped => exact .status _ rfl id id

end Sys2Proof.Machine
end

section
/-! Rules of the whole machine (10_state.md R100 to R119): what one step can do, and what every step keeps. -/

namespace Sys2Proof.Machine

open Sys2Proof

/-! ### Settling a command -/

/-- A settled command is what its writes reached, but for the completion fields and the count of a search's steps (R401,
R600): an error has written nothing, and neither has a search that goes on. -/
theorem settle_writes (i : Instr) (s : State) :
    ∃ (t : State) (st : Status) (code : BitVec 8) (n : Nat), Writes i s t ∧
      s.settle (commandResult s i) = { t with status := st, errcode := code, attempts := n } := by
  have hframe := commandResult_framed i s
  have hcommits := commandResult_commits i s
  rcases settle_cases s (commandResult s i) with ⟨t, hr, hset⟩ | ⟨e, t, hr, hset⟩ | ⟨-, hset⟩
  · rw [hr] at hcommits
    exact ⟨t, _, _, _, hcommits, hset⟩
  · rw [hr] at hframe
    exact ⟨t, _, _, _, .noted hframe, hset⟩
  · exact ⟨s, _, _, _, .noted (Noted.refl s), hset⟩

/-- What no command changes (R104, R106, R109, R111, R113). -/
theorem settle_kept (i : Instr) (s : State) :
    ControlKept s (s.settle (commandResult s i)) ∧
      (s.settle (commandResult s i)).desc = { s.desc with lenD := (s.settle (commandResult s i)).desc.lenD } ∧
      (s.unwrittenRead = true → (s.settle (commandResult s i)).unwrittenRead = true) := by
  obtain ⟨t, st, code, n, hwrites, hset⟩ := settle_writes i s
  have h := hwrites.kept
  rw [hset]
  exact ⟨⟨h.cfg, h.cmd, h.ie, h.osel, h.readData, h.agenda⟩, h.desc, h.record⟩

/-- A settled command changed the tag of its pair destination alone (R104, R600). -/
theorem settle_isIdentity (i : Instr) (s : State) {j : Pair} (hj : pairDestination i ≠ some j) :
    (s.settle (commandResult s i)).isIdentity j = s.isIdentity j := by
  obtain ⟨t, st, code, n, hwrites, hset⟩ := settle_writes i s
  rw [hset]
  exact hwrites.isIdentity hj

/-- A settled command that stores no output left DMEM and the descriptors (R113, R114). -/
theorem settle_desc_dmem (i : Instr) (s : State) (hi : storesOutput i = false) :
    (s.settle (commandResult s i)).desc = s.desc ∧ (s.settle (commandResult s i)).dmem = s.dmem := by
  obtain ⟨t, st, code, n, hwrites, hset⟩ := settle_writes i s
  rw [hset]
  exact hwrites.desc_dmem hi

/-! ### One step -/

/-- What one step can do (R214, R401, R601, R700): with the agenda advanced, nothing, a command, a word that is no
command, a host access, or a reset. -/
inductive Stepped (u : State) : State → Prop
  | idle : Stepped u u
  | command (i : Instr) : Stepped u (u.settle (commandResult u i))
  | illegal : Stepped u (u.settle (.raise .illegalOpcode u))
  | host (a : HostAccess) : Stepped u (hostAccess a u)
  | reset : Stepped u u.hardwareReset

theorem sequencerStep_stepped {u t : State} (h : sequencerStep u = .next t) : Stepped u t := by
  unfold sequencerStep at h
  split at h
  · split at h
    · next i _ =>
      rw [exec_eq] at h
      cases h
      exact .command i
    · cases h
      exact .illegal
  · cases h
    exact .idle

theorem step_stepped {s t : State} (h : step s = .next t) : ∃ rest, Stepped { s with agenda := rest } t := by
  unfold step at h
  split at h
  · split at h
    · exact ⟨s.agenda, sequencerStep_stepped h⟩
    · next e rest _ =>
      refine ⟨rest, ?_⟩
      cases e with
      | host a => cases h; exact .host a
      | sequencer => exact sequencerStep_stepped h
      | rst => cases h; exact .reset
  · cases h

/-! ### The configuration and the record of UNWRITTEN_READ -/

theorem HostWrites.keeps_cfg_record {bits : Nat} {off data : Word} {s t : State} (h : HostWrites bits off data s t) :
    t.cfg = s.cfg ∧ (s.unwrittenRead = true → t.unwrittenRead = true) := by
  cases h with
  | operandWord => simp
  | _ => exact ⟨rfl, id⟩

/-- No host access changes the configuration or takes back the record (R118, R609). -/
theorem hostAccess_keeps_cfg_record (a : HostAccess) (s : State) :
    (hostAccess a s).cfg = s.cfg ∧ (s.unwrittenRead = true → (hostAccess a s).unwrittenRead = true) := by
  cases a with
  | read bits off =>
    obtain ⟨_, _, _, _, hrecord, hread⟩ := hostRead_cases bits off s
    rw [hostAccess, hread]
    exact ⟨rfl, hrecord⟩
  | write bits off data => exact (hostWrite_writes bits off data s).keeps_cfg_record

theorem Stepped.keeps_cfg_record {u t : State} (h : Stepped u t) :
    t.cfg = u.cfg ∧ (u.unwrittenRead = true → t.unwrittenRead = true) := by
  cases h with
  | idle => exact ⟨rfl, id⟩
  | command i =>
    obtain ⟨⟨hcfg, -⟩, -, hrecord⟩ := settle_kept i u
    exact ⟨hcfg, hrecord⟩
  | illegal => exact ⟨rfl, id⟩
  | host a => exact hostAccess_keeps_cfg_record a u
  | reset => exact ⟨rfl, id⟩

/-- Settles O24: each thing a step can do keeps both. -/
theorem noStepChangesConfigurationOrClearsTheFault : Obligations.NoStepChangesConfigurationOrClearsTheFault := by
  intro s t h
  obtain ⟨rest, hstep⟩ := step_stepped h
  exact hstep.keeps_cfg_record

/-! ### The invariant -/

/-- The clauses of `Inv` on STATUS and ERRCODE. -/
structure WellReported (s : State) : Prop where
  busyIsClear : s.status.busy = true → s.status.done = false ∧ s.status.err = false ∧ s.errcode = 0#8
  errHasCode : s.status.err = true → s.errcode ≠ 0#8
  codeKnown : s.errcode.toNat ≤ 7

theorem WellReported.congr {s t : State} (h : WellReported s) (hstatus : t.status = s.status)
    (herrcode : t.errcode = s.errcode) : WellReported t where
  busyIsClear hb := by rw [hstatus, herrcode]; exact h.busyIsClear (hstatus ▸ hb)
  errHasCode he := by rw [herrcode]; exact h.errHasCode (hstatus ▸ he)
  codeKnown := herrcode ▸ h.codeKnown

theorem inv_iff (s : State) : Inv s ↔ WellStored s ∧ WellReported s := by
  constructor
  · intro h
    exact ⟨⟨(admitted_iff_wellFormedConfig _).1 h.admitted, h.values, h.canonical, h.inDmem⟩,
      ⟨h.busyIsClear, h.errHasCode, h.codeKnown⟩⟩
  · rintro ⟨hstored, hreported⟩
    exact ⟨(admitted_iff_wellFormedConfig _).2 hstored.config, hstored.values, hstored.canonical, hstored.inDmem,
      hreported.busyIsClear, hreported.errHasCode, hreported.codeKnown⟩

/-- Completion reports a code of R600, and ERR where it is not OK (R401). -/
theorem wellReported_settle {s : State} (h : WellReported s) (r : CmdResult) : WellReported (s.settle r) := by
  cases r with
  | commit t => exact ⟨nofun, nofun, by simp⟩
  | raise e t => exact ⟨nofun, fun _ => e.code_ne_zero, e.code_le⟩
  | searching => exact h.congr rfl rfl

theorem wellStored_command {s : State} (h : WellStored s) (i : Instr) :
    WellStored (s.settle (commandResult s i)) := by
  obtain ⟨t, st, code, n, hwrites, hset⟩ := settle_writes i s
  rw [hset]
  exact (hwrites.wellStored h).congr rfl rfl rfl

/-- The state that a reset leaves, from any state of a well-formed configuration (R119, R700). -/
theorem wellStored_hardwareReset {s : State} (h : wellFormedConfig s.cfg) : WellStored s.hardwareReset where
  config := h
  values r := by simp [State.reg, Operand.reset]
  canonical := rfl
  inDmem _ _ := rfl

theorem wellReported_hardwareReset (s : State) : WellReported s.hardwareReset := ⟨nofun, nofun, by simp⟩

theorem inv_hardwareReset {s : State} (h : wellFormedConfig s.cfg) : Inv s.hardwareReset :=
  (inv_iff _).2 ⟨wellStored_hardwareReset h, wellReported_hardwareReset s⟩

theorem hardwareReset_reset : State.reset.hardwareReset = State.reset := rfl

theorem wellStored_writeOperandWord {s : State} (h : WellStored s) (r : Reg) {w : Nat} (hw : 4 * w < s.cfg.opw / 8)
    (d : Word) : WellStored (s.writeOperandWord r w d) := by
  obtain ⟨hwords, -⟩ := h.sizes
  have hlow : 32 * (w + 1) ≤ s.cfg.opw := by omega
  have hfree : valueOfWords (Config.unwrittenWord s.stamp) (s.cfg.opw / 32) < 2 ^ s.cfg.opw :=
    (valueOfWords_lt _ _).trans_le (Nat.pow_le_pow_right (by omega) (by omega))
  unfold State.writeOperandWord
  split
  · exact h.setReg r (setWindowWord_lt d (h.values r) hlow)
  · exact (h.setReg r (setWindowWord_lt d hfree hlow)).congr rfl rfl rfl

/-- The four bytes of a DMEM window word lie below DMEM_BYTES (R8, R204). -/
theorem wellStored_writeWord {s : State} (h : WellStored s) {a : Nat} (haligned : a % 4 = 0) (ha : a < s.cfg.dmemBytes)
    (d : Word) : WellStored { s with dmem := s.dmem.writeWord a d } := by
  obtain ⟨-, -, -, -, hkilo, -⟩ := h.sizes
  exact h.writeBytes (by rw [leBytes_length]; omega)

theorem inv_hostRead {s : State} (h : Inv s) (bits : Nat) (off : Word) : Inv (hostRead bits off s) := by
  obtain ⟨_, _, _, _, -, hread⟩ := hostRead_cases bits off s
  rw [hread]
  exact ⟨h.admitted, h.values, h.canonical, h.inDmem, h.busyIsClear, h.errHasCode, h.codeKnown⟩

/-- Clearing completion bits and setting sticky bits breaks no clause on them (R107). -/
theorem WellReported.of_status {s : State} (h : WellReported s) {st : Status} (hbusy : st.busy = s.status.busy)
    (hdone : st.done = true → s.status.done = true) (herr : st.err = true → s.status.err = true) :
    WellReported { s with status := st } where
  busyIsClear hb := by
    obtain ⟨hd, he, hcode⟩ := h.busyIsClear (hbusy ▸ hb)
    exact ⟨Bool.eq_false_of_not_eq_true fun hne => by simp [hdone hne] at hd,
      Bool.eq_false_of_not_eq_true fun hne => by simp [herr hne] at he, hcode⟩
  errHasCode he := h.errHasCode (herr he)
  codeKnown := h.codeKnown

theorem HostWrites.keeps_inv {bits : Nat} {off data : Word} {s t : State} (hwrite : HostWrites bits off data s t)
    (h : Inv s) : Inv t := by
  obtain ⟨hstored, hreported⟩ := (inv_iff s).1 h
  refine (inv_iff t).2 ?_
  cases hwrite with
  | status st hbusy hdone herr => exact ⟨hstored.congr rfl rfl rfl, hreported.of_status hbusy hdone herr⟩
  | accept => exact ⟨hstored.congr rfl rfl rfl, fun _ => ⟨rfl, rfl, rfl⟩, nofun, by simp⟩
  | softReset => exact ⟨wellStored_hardwareReset hstored.config, wellReported_hardwareReset s⟩
  | inf => exact ⟨hstored.congr rfl rfl rfl, hreported.congr rfl rfl⟩
  | control => exact ⟨hstored.congr rfl rfl rfl, hreported.congr rfl rfl⟩
  | operandWord hreach =>
    exact ⟨wellStored_writeOperandWord hstored _ (reach_eq_operandWord hreach) _, hreported.congr (by simp) (by simp)⟩
  | dmemWord hreach =>
    obtain ⟨haligned, ha⟩ := reach_eq_dmemWord hreach
    exact ⟨wellStored_writeWord hstored haligned ha _, hreported.congr rfl rfl⟩

theorem Stepped.keeps_inv {u t : State} (hstep : Stepped u t) (h : Inv u) : Inv t := by
  obtain ⟨hstored, hreported⟩ := (inv_iff u).1 h
  cases hstep with
  | idle => exact h
  | command i => exact (inv_iff _).2 ⟨wellStored_command hstored i, wellReported_settle hreported _⟩
  | illegal => exact (inv_iff _).2 ⟨hstored.congr rfl rfl rfl, wellReported_settle hreported _⟩
  | host a =>
    cases a with
    | read bits off => exact inv_hostRead h bits off
    | write bits off data => exact (hostWrite_writes bits off data u).keeps_inv h
  | reset => exact inv_hardwareReset hstored.config

/-- Settles O22: the agenda is no part of `Inv`, and each thing a step can do keeps it. -/
theorem everyStepKeepsTheInvariant : Obligations.EveryStepKeepsTheInvariant := by
  intro s t hinv h
  obtain ⟨rest, hstep⟩ := step_stepped h
  refine hstep.keeps_inv ?_
  exact ⟨hinv.admitted, hinv.values, hinv.canonical, hinv.inDmem, hinv.busyIsClear, hinv.errHasCode, hinv.codeKnown⟩

/-- Settles O23: the state after reset is what a reset leaves, in the default configuration. -/
theorem theStateAfterResetMeetsTheInvariant : Obligations.TheStateAfterResetMeetsTheInvariant := by
  rw [Obligations.TheStateAfterResetMeetsTheInvariant, ← hardwareReset_reset]
  exact inv_hardwareReset default_wellFormed

/-! ### Tags, descriptors and control registers -/

/-- The rows of the opcode map that write a pair as a point (R302, R104). -/
theorem pairDestination_eq_some {i : Instr} {j : Pair} (h : pairDestination i = some j) :
    (∃ rd ra rb, i = .ecAdd rd ra rb ∧ j = pairOf rd) ∨ (∃ rd ra, i = .ecDbl rd ra ∧ j = pairOf rd) ∨
    (∃ rd ra rb, i = .ecSmul rd ra rb ∧ j = pairOf rd) ∨ (∃ rd rb, i = .egKeygen rd rb ∧ j = pairOf rb) ∨
    (∃ rd ra rb rc, i = .egEnc rd ra rb rc ∧ j = pairOf rd) := by
  cases i with
  | ecAdd rd ra rb => cases h; exact .inl ⟨_, _, _, rfl, rfl⟩
  | ecDbl rd ra => cases h; exact .inr (.inl ⟨_, _, rfl, rfl⟩)
  | ecSmul rd ra rb => cases h; exact .inr (.inr (.inl ⟨_, _, _, rfl, rfl⟩))
  | egKeygen rd rb => cases h; exact .inr (.inr (.inr (.inl ⟨_, _, rfl, rfl⟩)))
  | egEnc rd ra rb rc => cases h; exact .inr (.inr (.inr (.inr ⟨_, _, _, _, rfl, rfl⟩)))
  | _ => cases h

theorem hostRead_tag (bits : Nat) (off : Word) (s : State) : (hostRead bits off s).tag = s.tag := by
  obtain ⟨_, _, _, _, -, hread⟩ := hostRead_cases bits off s
  rw [hread]

/-- Of all a host write can do, the write to INF and the soft reset alone write the tags (R104, R701). -/
theorem HostWrites.tag_cases {bits : Nat} {off data : Word} {s t : State} (h : HostWrites bits off data s t)
    (hne : t.tag ≠ s.tag) :
    bits = 32 ∧ (off = 0x010#32 ∨ off = 0x00C#32 ∧ data.getLsbD 1 = true) := by
  cases h with
  | inf hreach =>
    obtain ⟨hbits, hoff⟩ := reach_inv hreach rfl
    exact ⟨hbits, .inl hoff⟩
  | softReset hreach hsrst =>
    obtain ⟨hbits, hoff⟩ := reach_inv hreach rfl
    exact ⟨hbits, .inr ⟨hoff, hsrst⟩⟩
  | operandWord => exact absurd (State.writeOperandWord_tag _ _ _ _) hne
  | _ => exact absurd rfl hne

/-- Settles O25: a command's writes change the tag of its pair destination alone, and a host read changes none. -/
theorem tagsChangeOnlyWithTheirPair : Obligations.TagsChangeOnlyWithTheirPair := by
  constructor
  · intro i s t j h hne
    rw [exec_eq] at h
    cases h
    by_contra hno
    exact hne (settle_isIdentity i s fun hj => hno (pairDestination_eq_some hj))
  · intro a s hne
    cases a with
    | read bits off => exact absurd (hostRead_tag bits off s) hne
    | write bits off data =>
      obtain ⟨rfl, rfl | ⟨rfl, hsrst⟩⟩ := (hostWrite_writes bits off data s).tag_cases hne
      · exact .inl ⟨data, rfl⟩
      · exact .inr ⟨data, rfl, hsrst⟩

/-- The seven commands of R114. -/
theorem storesOutput_eq_true {i : Instr} (h : storesOutput i = true) :
    (∃ ra rb, i = .rsaSign ra rb) ∨ i = .salsaQr ∨ i = .salsaBlock ∨ i = .salsaKs ∨ i = .salsaXor ∨ i = .ofbEnc ∨
      i = .ofbDec := by
  cases i with
  | rsaSign ra rb => exact .inl ⟨ra, rb, rfl⟩
  | salsaQr | salsaBlock | salsaKs | salsaXor | ofbEnc | ofbDec => simp
  | _ => cases h

/-- Settles O26: the frame of every command, and its writes where it stores no output. -/
theorem commandsWriteNoOtherControlRegister : Obligations.CommandsWriteNoOtherControlRegister := by
  intro i s t h
  rw [exec_eq] at h
  cases h
  obtain ⟨hcontrol, hdesc, -⟩ := settle_kept i s
  refine ⟨hdesc, hcontrol, fun hchange => storesOutput_eq_true ?_⟩
  by_contra hno
  obtain ⟨hdesc', hdmem'⟩ := settle_desc_dmem i s (by simpa using hno)
  exact hchange.elim (· hdesc') (· hdmem')

end Sys2Proof.Machine
end

section
/-! Host reads and writes of the register page and of the operand window (10_state.md R102, R105 to R113; 20_memory.md
R203): what each register reads as, and what a write leaves unchanged. -/

namespace Sys2Proof.Machine

open Sys2Proof

/-! ### STATUS -/

/-- The fields of STATUS as a binary number, bit 0 first. -/
theorem Status.toWord_eq_bit (t : Status) :
    t.toWord = BitVec.ofNat 32
      (Nat.bit t.busy (Nat.bit t.done (Nat.bit t.err (Nat.bit t.ovr (Nat.bit t.haz (Nat.bit t.buserr 0)))))) := by
  simp only [Status.toWord, Nat.bit_val]
  congr 1
  ring

/-- STATUS reads its six fields in bits 5:0 and zero above (R107). -/
theorem Status.toWord_getLsbD (t : Status) (k : Nat) :
    t.toWord.getLsbD k =
      match k with
      | 0 => t.busy
      | 1 => t.done
      | 2 => t.err
      | 3 => t.ovr
      | 4 => t.haz
      | 5 => t.buserr
      | _ => false := by
  rw [Status.toWord_eq_bit, BitVec.getLsbD_ofNat]
  rcases k with _ | _ | _ | _ | _ | _ | k <;> simp [Nat.testBit_bit_succ]

theorem hostRead_status (s : State) : hostRead 32 0x004#32 s = s.returns s.status.toWord := by
  rw [hostRead, reach_pageOffset s.cfg (rfl : pageOffset .status = some _)]

theorem hostWrite_status (s : State) (w : Word) :
    hostWrite 32 0x004#32 w s = { s with status := s.status.writeOneToClear w } := by
  rw [hostWrite, reach_pageOffset s.cfg (rfl : pageOffset .status = some _)]

/-- Settles O18: the read by the bits of `toWord`, the write by `writeOneToClear`. -/
theorem statusReadsItsFieldsAndClearsOnes : Obligations.StatusReadsItsFieldsAndClearsOnes := by
  intro s w
  exact ⟨hostRead_status s, s.status.toWord_getLsbD, _, hostWrite_status s w, rfl, rfl, rfl, rfl, rfl, rfl⟩

/-! ### The operand window -/

/-- Word w of the operand window lies at 0x01000 + 4w (R203). -/
theorem reach_operandWord {c : Config} {w : Nat} {off : Word} (hw : w < c.opw / 32)
    (hoff : off.toNat = 0x1000 + 4 * w) : reach c 32 off = .operandWord w := by
  rw [reach, if_pos ⟨rfl, by omega⟩]
  unfold target
  rw [if_neg (by omega), if_pos (by omega)]
  congr
  omega

/-- A window write sets the register from its old value, or from free words where nothing of it was written (R203). -/
theorem State.writeOperandWord_eq_setReg (s : State) (r : Reg) (w : Nat) (d : Word) :
    ∃ v n, s.writeOperandWord r w d = { s.setReg r (setWindowWord v w d) with stamp := n } ∧
      (s.written r = true → v = s.reg r ∧ n = s.stamp) := by
  unfold State.writeOperandWord
  split
  · exact ⟨s.reg r, s.stamp, rfl, fun _ => ⟨rfl, rfl⟩⟩
  · next hunwritten => exact ⟨_, _, rfl, fun h => absurd h hunwritten⟩

/-- While BUSY = 0, a window read of a written register returns its word (R203). -/
theorem hostRead_operandWord {s : State} {w : Nat} {off : Word} (hidle : s.status.busy = false)
    (hreach : reach s.cfg 32 off = .operandWord w) (hwritten : s.written s.osel = true) :
    hostRead 32 off s = s.returns (windowWord (s.reg s.osel) w) := by
  rw [hostRead, hreach]
  simp [hidle, hwritten]

theorem hostWrite_operandWord {s : State} {w : Nat} {off : Word} (hidle : s.status.busy = false)
    (hreach : reach s.cfg 32 off = .operandWord w) (data : Word) :
    hostWrite 32 off data s = s.writeOperandWord s.osel w data := by
  rw [hostWrite, hreach]
  simp [hidle]

/-- Settles O16: the write is one `setReg` with one window word of the value replaced, and the register then reads. -/
theorem operandWindowWriteReplacesOneWord : Obligations.OperandWindowWriteReplacesOneWord := by
  intro s w data off hidle _ hw hoff
  have hreach := reach_operandWord hw hoff
  obtain ⟨v, n, hwrite, hold⟩ := s.writeOperandWord_eq_setReg s.osel w data
  have hword : windowWord ((s.setReg s.osel (setWindowWord v w data)).reg s.osel) w = data := by
    rw [State.reg_setReg_self, windowWord_setWindowWord]
  have hwritten := s.written_setReg_self s.osel (setWindowWord v w data)
  refine ⟨{ s.setReg s.osel (setWindowWord v w data) with stamp := n }, ?_, hword, hwritten, ?_, ?_, rfl, ?_⟩
  · exact (hostWrite_operandWord hidle hreach data).trans hwrite
  · intro hbefore
    obtain ⟨rfl, rfl⟩ := hold hbefore
    refine ⟨rfl, fun u hu => ?_⟩
    exact (congrArg (windowWord · u) (s.reg_setReg_self s.osel _)).trans (windowWord_setWindowWord_of_ne _ data hu)
  · exact fun r hr => s.setReg_getElem_of_ne _ hr
  · exact (hostRead_operandWord (s := { s.setReg s.osel (setWindowWord v w data) with stamp := n }) hidle hreach
      hwritten).trans (congrArg (State.returns _) hword)

/-! ### The input registers of the page -/

/-- The registers of `inputRegisters`: INF, OSEL and the ten descriptors. -/
theorem mem_inputRegisters {p : Word × Word} (h : p ∈ inputRegisters) :
    p = (0x010#32, 0x0000FFFF#32) ∨ p = (0x014#32, 0x0000001F#32) ∨ ∃ n, p = (descOffset n, 0xFFFFFFFF#32) := by
  simp only [inputRegisters, List.mem_cons, List.not_mem_nil, or_false] at h
  rcases h with h | h | h | h | h | h | h | h | h | h | h | h
  · exact .inl h
  · exact .inr (.inl h)
  · exact .inr (.inr ⟨.addrA, h⟩)
  · exact .inr (.inr ⟨.lenA, h⟩)
  · exact .inr (.inr ⟨.addrB, h⟩)
  · exact .inr (.inr ⟨.lenB, h⟩)
  · exact .inr (.inr ⟨.addrK, h⟩)
  · exact .inr (.inr ⟨.lenK, h⟩)
  · exact .inr (.inr ⟨.addrN, h⟩)
  · exact .inr (.inr ⟨.lenN, h⟩)
  · exact .inr (.inr ⟨.addrD, h⟩)
  · exact .inr (.inr ⟨.lenD, h⟩)

@[simp] theorem Descriptors.get_set_self (d : Descriptors) (n : DescName) (w : Word) : (d.set n w).get n = w := by
  cases n <;> rfl

theorem Descriptors.get_set_of_ne (d : Descriptors) {m n : DescName} (w : Word) (h : m ≠ n) :
    (d.set n w).get m = d.get m := by
  cases n <;> cases m <;> trivial

section
variable (s : State)

theorem hostRead_cmd : hostRead 32 0x000#32 s = s.returns s.cmd := by
  rw [hostRead, reach_pageOffset s.cfg (rfl : pageOffset .cmd = some _)]

theorem hostRead_errcode : hostRead 32 0x008#32 s = s.returns (s.errcode.setWidth 32) := by
  rw [hostRead, reach_pageOffset s.cfg (rfl : pageOffset .errcode = some _)]

theorem hostRead_ctrl : hostRead 32 0x00C#32 s = s.returns (if s.ie then 1#32 else 0#32) := by
  rw [hostRead, reach_pageOffset s.cfg (rfl : pageOffset .ctrl = some _)]
  cases s.ie <;> rfl

theorem hostRead_inf : hostRead 32 0x010#32 s = s.returns (s.tag.setWidth 32) := by
  rw [hostRead, reach_pageOffset s.cfg (rfl : pageOffset .inf = some _)]

theorem hostRead_osel : hostRead 32 0x014#32 s = s.returns (BitVec.ofNat 32 s.osel.val) := by
  rw [hostRead, reach_pageOffset s.cfg (rfl : pageOffset .osel = some _)]

theorem hostRead_caps : hostRead 32 0x018#32 s = s.returns (caps s.cfg) := by
  rw [hostRead, reach_pageOffset s.cfg (rfl : pageOffset .caps = some _)]

theorem hostRead_descriptor (n : DescName) : hostRead 32 (descOffset n) s = s.returns (s.desc.get n) := by
  rw [hostRead, reach_pageOffset s.cfg (rfl : pageOffset (.descriptor n) = some _)]

theorem hostWrite_errcode (w : Word) : hostWrite 32 0x008#32 w s = s := by
  rw [hostWrite, reach_pageOffset s.cfg (rfl : pageOffset .errcode = some _)]

theorem hostWrite_caps (w : Word) : hostWrite 32 0x018#32 w s = s := by
  rw [hostWrite, reach_pageOffset s.cfg (rfl : pageOffset .caps = some _)]

theorem hostWrite_osel (w : Word) :
    hostWrite 32 0x014#32 w s = { s with osel := ⟨w.toNat % 32, Nat.mod_lt _ (by decide)⟩ } := by
  rw [hostWrite, reach_pageOffset s.cfg (rfl : pageOffset .osel = some _)]

variable {s}

theorem hostWrite_inf (hidle : s.status.busy = false) (w : Word) :
    hostWrite 32 0x010#32 w s = { s with tag := w.setWidth 16 } := by
  rw [hostWrite, reach_pageOffset s.cfg (rfl : pageOffset .inf = some _)]
  simp [hidle]

theorem hostWrite_descriptor (hidle : s.status.busy = false) (n : DescName) (w : Word) :
    hostWrite 32 (descOffset n) w s = { s with desc := s.desc.set n w } := by
  rw [hostWrite, reach_pageOffset s.cfg (rfl : pageOffset (.descriptor n) = some _)]
  simp [hidle]

end

/-- The low k bits of a word, as a mask keeps them (R105). -/
theorem and_lowMask (w : Word) {k : Nat} (hk : k ≤ 32) :
    w &&& BitVec.ofNat 32 (2 ^ k - 1) = BitVec.ofNat 32 (w.toNat % 2 ^ k) := by
  apply BitVec.eq_of_toNat_eq
  have hmask : 2 ^ k - 1 < 2 ^ 32 := by
    have : 2 ^ k ≤ 2 ^ 32 := Nat.pow_le_pow_right (by omega) hk
    have := Nat.two_pow_pos k
    omega
  rw [BitVec.toNat_and, BitVec.toNat_ofNat, BitVec.toNat_ofNat, Nat.mod_eq_of_lt hmask, Nat.and_two_pow_sub_one_eq_mod,
    Nat.mod_eq_of_lt ((Nat.mod_le _ _).trans_lt w.isLt)]

theorem setWidth_setWidth_eq_and (w : Word) : (w.setWidth 16).setWidth 32 = w &&& 0x0000FFFF#32 := by
  rw [show (0x0000FFFF#32 : Word) = BitVec.ofNat 32 (2 ^ 16 - 1) from rfl, and_lowMask w (by decide)]
  apply BitVec.eq_of_toNat_eq
  simp

/-- What the host sees of a write of `w` to an input register `p`, which leads from s to t (R105): the written bits read
back, and no other register of the page, operand register or DMEM byte has changed. -/
structure TakesWrite (s t : State) (p : Word × Word) (w : Word) : Prop where
  readsBack : hostRead 32 p.1 t = t.returns (w &&& p.2)
  others : ∀ q ∈ inputRegisters, q.1 ≠ p.1 → (hostRead 32 q.1 t).readData = (hostRead 32 q.1 s).readData
  frame : t.x = s.x ∧ t.dmem = s.dmem ∧ t.status = s.status ∧ t.errcode = s.errcode ∧ t.cmd = s.cmd ∧ t.ie = s.ie

theorem takesWrite_inf (s : State) (w : Word) :
    TakesWrite s { s with tag := w.setWidth 16 } (0x010#32, 0x0000FFFF#32) w where
  readsBack := by rw [hostRead_inf, setWidth_setWidth_eq_and]
  others q hq hne := by
    rcases mem_inputRegisters hq with rfl | rfl | ⟨n, rfl⟩
    · exact absurd rfl hne
    · rw [hostRead_osel, hostRead_osel]; rfl
    · rw [hostRead_descriptor, hostRead_descriptor]; rfl
  frame := ⟨rfl, rfl, rfl, rfl, rfl, rfl⟩

theorem takesWrite_osel (s : State) (w : Word) :
    TakesWrite s { s with osel := ⟨w.toNat % 32, Nat.mod_lt _ (by decide)⟩ } (0x014#32, 0x0000001F#32) w where
  readsBack := by
    rw [hostRead_osel]
    exact congrArg _ (and_lowMask w (k := 5) (by decide)).symm
  others q hq hne := by
    rcases mem_inputRegisters hq with rfl | rfl | ⟨n, rfl⟩
    · rw [hostRead_inf, hostRead_inf]; rfl
    · exact absurd rfl hne
    · rw [hostRead_descriptor, hostRead_descriptor]; rfl
  frame := ⟨rfl, rfl, rfl, rfl, rfl, rfl⟩

theorem takesWrite_descriptor (s : State) (n : DescName) (w : Word) :
    TakesWrite s { s with desc := s.desc.set n w } (descOffset n, 0xFFFFFFFF#32) w where
  readsBack := by
    rw [hostRead_descriptor, Descriptors.get_set_self]
    exact congrArg _ (BitVec.and_allOnes (x := w)).symm
  others q hq hne := by
    rcases mem_inputRegisters hq with rfl | rfl | ⟨m, rfl⟩
    · rw [hostRead_inf, hostRead_inf]; rfl
    · rw [hostRead_osel, hostRead_osel]; rfl
    · have hmn : m ≠ n := fun h => hne (h ▸ rfl)
      rw [hostRead_descriptor, hostRead_descriptor, Descriptors.get_set_of_ne _ _ hmn]
      rfl
  frame := ⟨rfl, rfl, rfl, rfl, rfl, rfl⟩

theorem hostWrite_takesWrite {s : State} (hidle : s.status.busy = false) (w : Word) {p : Word × Word}
    (hp : p ∈ inputRegisters) : TakesWrite s (hostWrite 32 p.1 w s) p w := by
  rcases mem_inputRegisters hp with rfl | rfl | ⟨n, rfl⟩
  · rw [hostWrite_inf hidle]; exact takesWrite_inf s w
  · rw [hostWrite_osel]; exact takesWrite_osel s w
  · rw [hostWrite_descriptor hidle]; exact takesWrite_descriptor s n w

/-! ### CAPS -/

/-- CAPS as a number: OPWW in bits 15:0, DMEMK above (R112). -/
theorem caps_toNat {c : Config} (hopw : c.opw / 32 < 65536) :
    (caps c).toNat = (dmemk c).toNat * 65536 + c.opw / 32 := by
  have hdmemk := (dmemk c).isLt
  have hshift : ((dmemk c).setWidth 32 <<< 16).toNat = (dmemk c).toNat <<< 16 := by
    rw [BitVec.toNat_shiftLeft, BitVec.toNat_setWidth, Nat.shiftLeft_eq, Nat.shiftLeft_eq]
    omega
  rw [caps, BitVec.toNat_or, BitVec.toNat_ofNat, Nat.mod_eq_of_lt (by omega), hshift, Nat.or_comm,
    ← Nat.shiftLeft_add_eq_or_of_lt hopw, Nat.shiftLeft_eq]

theorem dmemk_toNat {c : Config} (h : c.dmemBytes / 1024 < 65536) : (dmemk c).toNat = c.dmemBytes / 1024 := by
  rw [dmemk, if_pos h, BitVec.toNat_ofNat, Nat.mod_eq_of_lt h]

/-- Settles O19: each input register takes its write, and the others read as they are stored. -/
theorem registerPageReadsBack : Obligations.RegisterPageReadsBack := by
  intro s w hidle
  refine ⟨fun p hp => ?_, hostWrite_errcode s w, hostWrite_caps s w, hostRead_cmd s, hostRead_errcode s,
    hostRead_ctrl s, caps s.cfg, hostRead_caps s, fun hopw => ?_⟩
  · have htakes := hostWrite_takesWrite hidle w hp
    exact ⟨_, rfl, htakes.readsBack, htakes.others, htakes.frame⟩
  · rw [caps_toNat hopw]
    refine ⟨by omega, fun hdmem => ?_⟩
    rw [dmemk_toNat hdmem]
    omega

end Sys2Proof.Machine
end

section
/-! Host accesses by what they reach (20_memory.md R200 to R204, R207, R210): which offsets are mapped, which reads and
writes BUSY = 1 changes, and the byte order of the DMEM window. -/

namespace Sys2Proof.Machine

open Sys2Proof

/-! ### The mapped offsets -/

/-- The offsets of the register page at which a register lies, for an aligned offset (R105). -/
def InPage (n : Nat) : Prop := n ≤ 0x018 ∨ (0x020 ≤ n ∧ n ≤ 0x044)

/-- The offsets of the operand window and of the DMEM window (R201). -/
def InWindow (c : Config) (n : Nat) : Prop :=
  (0x1000 ≤ n ∧ n < 0x1000 + c.opw / 8) ∨ (0x10000 ≤ n ∧ n < 0x10000 + c.dmemBytes)

/-- What is read and written word by word through a window (R203, R204). -/
def Target.isWindow : Target → Bool
  | .operandWord _ | .dmemWord _ => true
  | _ => false

/-- The inputs of a command, to which host writes are dropped while BUSY = 1 (R207). -/
def Target.isInput : Target → Bool
  | .inf | .descriptor _ => true
  | tgt => tgt.isWindow

theorem Target.isInput_of_isWindow {tgt : Target} (h : tgt.isWindow = true) : tgt.isInput = true := by
  cases tgt with
  | operandWord w | dmemWord a => rfl
  | _ => cases h

theorem Target.ne_unmapped_of_isWindow {tgt : Target} (h : tgt.isWindow = true) : tgt ≠ .unmapped := by
  rintro rfl
  cases h

theorem target_descriptor (c : Config) {n : Nat} (haligned : n % 4 = 0) (hn : 0x020 ≤ n ∧ n ≤ 0x044) :
    ∃ d, target c n = .descriptor d := by
  obtain ⟨k, rfl⟩ := Nat.dvd_of_mod_eq_zero haligned
  obtain ⟨hlow, hhigh⟩ : 8 ≤ k ∧ k ≤ 17 := by omega
  interval_cases k <;> exact ⟨_, rfl⟩

/-- A register lies at every aligned offset of the page's mapped ranges (R105). -/
theorem target_page (c : Config) {n : Nat} (haligned : n % 4 = 0) (hn : InPage n) :
    ∃ off, pageOffset (target c n) = some off := by
  rcases hn with hlow | hdesc
  · obtain ⟨k, rfl⟩ := Nat.dvd_of_mod_eq_zero haligned
    have hk : k ≤ 6 := by omega
    interval_cases k <;> exact ⟨_, rfl⟩
  · obtain ⟨d, hd⟩ := target_descriptor c haligned hdesc
    exact ⟨_, congrArg pageOffset hd⟩

/-- Above the page the two windows lie, the operand window first (R201). -/
theorem target_above (c : Config) {n : Nat} (hn : 0x1000 ≤ n) :
    target c n =
      if n < 0x1000 + c.opw / 8 then .operandWord ((n - 0x1000) / 4)
      else if 0x10000 ≤ n ∧ n < 0x10000 + c.dmemBytes then .dmemWord (n - 0x10000)
      else .unmapped :=
  if_neg (Nat.not_lt.2 hn)

theorem target_window {c : Config} {n : Nat} (hn : InWindow c n) : (target c n).isWindow = true := by
  have habove : 0x1000 ≤ n := by rcases hn with hn | hn <;> omega
  rw [target_above c habove]
  split
  · rfl
  · next hoperand =>
    rw [if_pos (hn.resolve_left fun h => hoperand h.2)]
    rfl

/-- Nothing lies outside the ranges of R105 and R201. -/
theorem target_unmapped {c : Config} {n : Nat} (hpage : ¬ InPage n) (hwindow : ¬ InWindow c n) :
    target c n = .unmapped := by
  rw [InPage] at hpage
  rw [InWindow] at hwindow
  by_cases hlow : n < 0x1000
  · unfold target
    rw [if_pos hlow]
    split
    case h_18 => rfl
    all_goals omega
  · rw [target_above c (Nat.not_lt.1 hlow), if_neg (by omega), if_neg (by omega)]

theorem reach_aligned (c : Config) {off : Word} (haligned : off.toNat % 4 = 0) : reach c 32 off = target c off.toNat :=
  if_pos ⟨rfl, haligned⟩

/-- The unsupported accesses: of another width, misaligned, or to an offset where nothing is mapped (R202). -/
theorem reach_unmapped {c : Config} {bits : Nat} {off : Word}
    (h : bits ≠ 32 ∨ off.toNat % 4 ≠ 0 ∨ (¬ InPage off.toNat ∧ ¬ InWindow c off.toNat)) :
    reach c bits off = .unmapped := by
  unfold reach
  split
  · next hsupported =>
    obtain ⟨hbits, haligned⟩ := hsupported
    obtain ⟨hpage, hwindow⟩ := (h.resolve_left (not_not_intro hbits)).resolve_left (not_not_intro haligned)
    exact target_unmapped hpage hwindow
  · rfl

theorem reach_page (c : Config) {off : Word} (haligned : off.toNat % 4 = 0) (h : InPage off.toNat) :
    ∃ o, pageOffset (reach c 32 off) = some o := by
  rw [reach_aligned c haligned]
  exact target_page c haligned h

theorem reach_window {c : Config} {off : Word} (haligned : off.toNat % 4 = 0) (h : InWindow c off.toNat) :
    (reach c 32 off).isWindow = true := by
  rw [reach_aligned c haligned]
  exact target_window h

/-- The supported accesses of R202 reach something. -/
theorem reach_mapped {c : Config} {off : Word} (haligned : off.toNat % 4 = 0)
    (h : InPage off.toNat ∨ InWindow c off.toNat) : reach c 32 off ≠ .unmapped := by
  rcases h with hpage | hwindow
  · obtain ⟨o, ho⟩ := reach_page c haligned hpage
    intro hreach
    rw [hreach] at ho
    cases ho
  · exact Target.ne_unmapped_of_isWindow (reach_window haligned hwindow)

/-- INF, the descriptors and the two windows are the inputs (R207). -/
theorem reach_input {c : Config} {off : Word} (haligned : off.toNat % 4 = 0)
    (h : off.toNat = 0x010 ∨ (0x020 ≤ off.toNat ∧ off.toNat ≤ 0x044) ∨ InWindow c off.toNat) :
    (reach c 32 off).isInput = true := by
  rcases h with hinf | hdesc | hwindow
  · rw [reach_aligned c haligned, hinf]
    rfl
  · obtain ⟨d, hd⟩ := target_descriptor c haligned hdesc
    rw [reach_aligned c haligned, hd]
    rfl
  · exact Target.isInput_of_isWindow (reach_window haligned hwindow)

/-! ### Accesses by what they reach -/

section
variable {bits : Nat} {off : Word} {s : State}

theorem hostRead_unmapped (h : reach s.cfg bits off = .unmapped) : hostRead bits off s = s.busError.returns 0#32 := by
  rw [hostRead, h]

theorem hostWrite_unmapped (h : reach s.cfg bits off = .unmapped) (data : Word) :
    hostWrite bits off data s = s.busError := by
  rw [hostWrite, h]

/-- A read of a register of the page returns a word and does nothing else, in either phase (R207, R210). -/
theorem hostRead_page {o : Word} (h : pageOffset (reach s.cfg bits off) = some o) :
    ∃ w, hostRead bits off s = s.returns w := by
  revert h
  unfold hostRead
  cases reach s.cfg bits off with
  | operandWord w | dmemWord a | unmapped => nofun
  | _ => exact fun _ => ⟨_, rfl⟩

/-- A supported read leaves STATUS alone (R202). -/
theorem hostRead_status_of_mapped (h : reach s.cfg bits off ≠ .unmapped) :
    (hostRead bits off s).status = s.status := by
  revert h
  unfold hostRead
  cases reach s.cfg bits off with
  | operandWord w | dmemWord a =>
    intro _
    dsimp only
    split
    · rfl
    · split <;> rfl
  | unmapped => exact fun h => absurd rfl h
  | _ => exact fun _ => rfl

/-- A supported write does not set BUSERR (R202). -/
theorem hostWrite_buserr_of_mapped (h : reach s.cfg bits off ≠ .unmapped) (hclear : s.status.buserr = false)
    (data : Word) : (hostWrite bits off data s).status.buserr = false := by
  revert h
  unfold hostWrite
  cases reach s.cfg bits off with
  | status => exact fun _ => Bool.and_eq_false_iff.2 (.inl hclear)
  | ctrl =>
    intro _
    dsimp only
    split
    · rfl
    · exact hclear
  | operandWord w =>
    intro _
    dsimp only
    split
    · exact hclear
    · rw [State.writeOperandWord_status]
      exact hclear
  | errcode | osel | caps => exact fun _ => hclear
  | cmd | inf | descriptor n | dmemWord a =>
    intro _
    dsimp only
    split <;> exact hclear
  | unmapped => exact fun h => absurd rfl h

/-- While BUSY = 1, a write to an input is dropped (R207). -/
theorem hostWrite_input_of_busy (hbusy : s.status.busy = true) (h : (reach s.cfg bits off).isInput = true)
    (data : Word) : hostWrite bits off data s = s.dropped := by
  revert h
  unfold hostWrite
  cases reach s.cfg bits off with
  | inf | descriptor n | operandWord w | dmemWord a => exact fun _ => if_pos hbusy
  | _ => nofun

/-- While BUSY = 1, a window read returns a free word (R207). -/
theorem hostRead_window_of_busy (hbusy : s.status.busy = true) (h : (reach s.cfg bits off).isWindow = true) :
    hostRead bits off s = s.returnsFree := by
  revert h
  unfold hostRead
  cases reach s.cfg bits off with
  | operandWord w | dmemWord a => exact fun _ => if_pos hbusy
  | _ => nofun

end

/-- Settles O13: an unsupported access reaches nothing, and what is mapped never sets BUSERR. -/
theorem unsupportedAccessSetsBuserr : Obligations.UnsupportedAccessSetsBuserr := by
  intro s bits off data
  refine ⟨fun hunsupported => ?_, fun hbits haligned hrange => ?_, hostWrite_errcode s data, hostWrite_caps s data⟩
  · have hreach : reach s.cfg bits off = .unmapped :=
      reach_unmapped (hunsupported.imp_right (.imp_right (.imp_right not_or.2)))
    exact ⟨hostRead_unmapped hreach, hostWrite_unmapped hreach data⟩
  · subst hbits
    have hmapped := reach_mapped (c := s.cfg) haligned (or_assoc.2 hrange)
    exact ⟨hostRead_status_of_mapped hmapped, fun hclear => hostWrite_buserr_of_mapped hmapped hclear data⟩

/-- Settles O14: a register is returned as it is, and a window read is what any read is, without BUSERR. -/
theorem supportedReadHasNoSideEffect : Obligations.SupportedReadHasNoSideEffect := by
  intro s off haligned hrange
  by_cases hpage : InPage off.toNat
  · obtain ⟨o, ho⟩ := reach_page s.cfg haligned hpage
    obtain ⟨w, hread⟩ := hostRead_page ho
    exact ⟨some w, s.stamp, s.unwrittenRead, hread, id, fun _ => ⟨nofun, rfl, rfl⟩⟩
  · have hwindow : InWindow s.cfg off.toNat := (or_assoc.2 hrange).resolve_left hpage
    have hstatus := hostRead_status_of_mapped (reach_mapped haligned (.inr hwindow))
    obtain ⟨r, n, u, b, hrecord, hread⟩ := hostRead_cases 32 off s
    rw [hread] at hstatus
    refine ⟨r, n, u, hread.trans ?_, hrecord, fun hlow => ?_⟩
    · exact congrArg (fun st => { s with readData := r, stamp := n, unwrittenRead := u, status := st }) hstatus
    · rcases hwindow with hwindow | hwindow <;> omega

/-- Settles O15: the inputs are what a busy core drops, the windows what it answers with a free word. -/
theorem inputWritesAreDroppedWhileBusy : Obligations.InputWritesAreDroppedWhileBusy := by
  intro s off data hbusy haligned
  refine ⟨fun hinput => ?_, fun hwindow => ?_, _, rfl, hostWrite_osel s data⟩
  · exact hostWrite_input_of_busy hbusy (reach_input haligned hinput) data
  · exact ⟨_, hostRead_window_of_busy hbusy (reach_window haligned hwindow)⟩

/-! ### The bytes of a word -/

theorem leNat_lt (l : List Byte) : leNat l < 256 ^ l.length := by
  induction l with
  | nil => simp [leNat]
  | cons b l ih =>
    have hb := b.isLt
    rw [leNat, List.length_cons, pow_succ]
    omega

/-- le_bytes undoes LE on a string of its length (R12). -/
theorem leBytes_leNat (l : List Byte) : leBytes l.length (leNat l) = l := by
  induction l with
  | nil => rfl
  | cons b l ih =>
    have hb := b.isLt
    have hhead : BitVec.ofNat 8 (b.toNat + 256 * leNat l) = b := by
      apply BitVec.eq_of_toNat_eq
      rw [BitVec.toNat_ofNat]
      omega
    have htail : (b.toNat + 256 * leNat l) / 256 = leNat l := by omega
    rw [List.length_cons, leNat, leBytes, hhead, htail, ih]

/-- The little-endian bytes of a word are its bits 7:0, 15:8, 23:16 and 31:24 (R12, R204). -/
theorem leBytes_word (d : Word) :
    leBytes 4 d.toNat = [d.extractLsb' 0 8, d.extractLsb' 8 8, d.extractLsb' 16 8, d.extractLsb' 24 8] := by
  simp [leBytes, BitVec.extractLsb', Nat.shiftRight_eq_div_pow, Nat.div_div_eq_div_mul]

/-- A string of four bytes is the bytes of its little-endian word (R12). -/
theorem leBytes_word_of_bytes (b0 b1 b2 b3 : Byte) :
    leBytes 4 (BitVec.ofNat 32 (leNat [b0, b1, b2, b3])).toNat = [b0, b1, b2, b3] := by
  have hlt : leNat [b0, b1, b2, b3] < 2 ^ 32 := (leNat_lt [b0, b1, b2, b3]).trans_eq (by norm_num)
  rw [BitVec.toNat_ofNat, Nat.mod_eq_of_lt hlt]
  exact leBytes_leNat [b0, b1, b2, b3]

/-! ### The DMEM window -/

/-- Word k of the DMEM window lies at 0x10000 + 4k, above the operand window (R201, R204). -/
theorem reach_dmemWord {c : Config} {k : Nat} {off : Word} (hopw : c.opw ≤ 32768) (hk : k < c.dmemBytes / 4)
    (hoff : off.toNat = 0x10000 + 4 * k) : reach c 32 off = .dmemWord (4 * k) := by
  rw [reach_aligned c (by omega), target_above c (by omega), if_neg (by omega), if_pos (by omega), hoff,
    Nat.add_sub_cancel_left]

theorem hostRead_dmemWord {s : State} {a : Nat} {off d : Word} (hidle : s.status.busy = false)
    (hreach : reach s.cfg 32 off = .dmemWord a) (hword : s.dmem.readWord a = some d) :
    hostRead 32 off s = s.returns d := by
  rw [hostRead, hreach]
  simp [hidle, hword]

theorem hostWrite_dmemWord {s : State} {a : Nat} {off : Word} (hidle : s.status.busy = false)
    (hreach : reach s.cfg 32 off = .dmemWord a) (data : Word) :
    hostWrite 32 off data s = { s with dmem := s.dmem.writeWord a data } := by
  rw [hostWrite, hreach]
  simp [hidle]

/-- Four written bytes read as their little-endian word (R204). -/
theorem Memory.readWord_eq {m : Memory} {a : Nat} {b0 b1 b2 b3 : Byte} (h0 : Memory.read m a = some b0)
    (h1 : Memory.read m (a + 1) = some b1) (h2 : Memory.read m (a + 2) = some b2)
    (h3 : Memory.read m (a + 3) = some b3) :
    Memory.readWord m a = some (BitVec.ofNat 32 (leNat [b0, b1, b2, b3])) := by
  rw [Memory.readWord, h0, h1, h2, h3]

/-- A word stored is its four bytes at four rising offsets, and every other byte is as it was (R204). -/
theorem Memory.read_writeWord (m : Memory) (a : Nat) (d : Word) (b : Nat) :
    Memory.read (Memory.writeWord m a d) b =
      if a ≤ b ∧ b < a + 4 then
        [d.extractLsb' 0 8, d.extractLsb' 8 8, d.extractLsb' 16 8, d.extractLsb' 24 8][b - a]?
      else Memory.read m b := by
  rw [Memory.writeWord, Memory.read_writeBytes, leBytes_word]
  rfl

/-- Settles O17: both directions are the four bytes of the word, `leBytes_word`. -/
theorem dmemWindowIsLittleEndian : Obligations.DmemWindowIsLittleEndian := by
  intro s k data off hidle hopw hk hoff
  have hreach := reach_dmemWord hopw hk hoff
  refine ⟨fun b0 b1 b2 b3 h0 h1 h2 h3 => ?_, _, hostWrite_dmemWord hidle hreach data, ?_⟩
  · have hbytes := (leBytes_word _).symm.trans (leBytes_word_of_bytes b0 b1 b2 b3)
    refine ⟨_, hostRead_dmemWord hidle hreach (Memory.readWord_eq h0 h1 h2 h3), ?_⟩
    simpa using hbytes
  · simp only [Memory.read_writeWord]
    refine ⟨?_, ?_, ?_, ?_, fun a ha => if_neg ha⟩ <;> simp

end Sys2Proof.Machine
end

section
/-! The command words (30_encoding.md R300 to R304): the decoder and the encoder are inverse to each other, and the decoder
rejects as unassigned the OPC values outside the map. -/

namespace Sys2Proof.Machine

open Sys2Proof

/-! ### The fields of a word -/

/-- The six fields cover the word: it is assembled from what they read (R300). -/
theorem assemble_fields (w : Word) :
    assemble (opcField w) (rdField w) (raField w) (rbField w) (rcField w) (auxField w) = w := by
  have hw := w.isLt
  apply BitVec.eq_of_toNat_eq
  simp only [assemble, opcField, rdField, raField, rbField, rcField, auxField, BitVec.toNat_ofNat]
  omega

theorem assemble_eq_iff {opc : Nat} (hopc : opc < 256) {rd ra rb rc : Reg} {aux : Fin 16} {w : Word} :
    assemble opc rd ra rb rc aux = w ↔
      opcField w = opc ∧ rdField w = rd ∧ raField w = ra ∧ rbField w = rb ∧ rcField w = rc ∧ auxField w = aux := by
  constructor
  · rintro rfl
    exact fields_assemble opc rd ra rb rc aux hopc
  · rintro ⟨rfl, rfl, rfl, rfl, rfl, rfl⟩
    exact assemble_fields w

/-! ### The rows of the opcode map -/

theorem ifClear_eq_ok_iff {clear : Bool} {i j : Instr} : ifClear clear i = .ok j ↔ clear = true ∧ i = j := by
  cases clear <;> simp [ifClear]

theorem ifClear_ne_unassigned (clear : Bool) (i : Instr) : ifClear clear i ≠ .error .unassignedOpcode := by
  cases clear <;> simp [ifClear]

/-- The OPC values of the opcode map (R302). -/
def assignedOpcodes : List Nat :=
  [0x00, 0x01, 0x02, 0x03, 0x08, 0x10, 0x11, 0x12, 0x13, 0x18, 0x19, 0x1A, 0x20, 0x21, 0x22, 0x23, 0x24, 0x30, 0x31, 0x32,
    0x33, 0x38, 0x39]

/-- What the decoder does with a word: it rejects an OPC outside the map, and in a row of the map it answers the command
that the word encodes, once the fields that the row reserves are 0 (R302 to R304). -/
theorem decode_cases (w : Word) :
    (opcField w ∉ assignedOpcodes ∧ decode w = .error .unassignedOpcode) ∨
      (opcField w ∈ assignedOpcodes ∧
        ∃ clear i, decode w = ifClear clear i ∧ (clear = true → encode i = w)) := by
  unfold decode
  split
  case h_24 => exact .inl ⟨by simp_all [assignedOpcodes], rfl⟩
  all_goals
    next hopc =>
    refine .inr ⟨by simp [hopc, assignedOpcodes], _, _, rfl, fun hclear => ?_⟩
    simp only [Bool.and_eq_true, beq_iff_eq] at hclear
    simp [encode, assemble_eq_iff, hopc, hclear]

theorem decode_encode (i : Instr) : decode (encode i) = .ok i := by
  cases i with
  | nop | salsaQr | salsaBlock | salsaKs | salsaXor | ofbEnc | ofbDec => rfl
  | _ => simp [decode, encode, ifClear, fields_assemble]

theorem encode_eq_of_decode {w : Word} {i : Instr} (h : decode w = .ok i) : encode i = w := by
  obtain ⟨-, hreject⟩ | ⟨-, clear, j, hrow, hencode⟩ := decode_cases w
  · cases hreject.symm.trans h
  · obtain ⟨hclear, rfl⟩ := ifClear_eq_ok_iff.1 (hrow.symm.trans h)
    exact hencode hclear

theorem decode_eq_ok_iff {w : Word} {i : Instr} : decode w = .ok i ↔ encode i = w :=
  ⟨encode_eq_of_decode, fun h => h ▸ decode_encode i⟩

theorem decode_eq_unassigned_iff {w : Word} :
    decode w = .error .unassignedOpcode ↔ opcField w ∉ assignedOpcodes := by
  obtain ⟨hopc, hreject⟩ | ⟨hopc, clear, i, hrow, -⟩ := decode_cases w
  · exact iff_of_true hreject hopc
  · exact iff_of_false (hrow ▸ ifClear_ne_unassigned clear i) (not_not_intro hopc)

/-! ### The statements -/

/-- Settles O1: each field of the word reads back, and the fields its row reserves read 0. -/
theorem decodingAnEncodingGivesTheCommand : Obligations.DecodingAnEncodingGivesTheCommand :=
  decode_encode

/-- Settles O2: a row whose reserved fields are 0 answers the command the word is assembled from. -/
theorem onlyItsEncodingDecodesToACommand : Obligations.OnlyItsEncodingDecodesToACommand :=
  fun _ _ => encode_eq_of_decode

/-- Settles O3: the ranges of R304 are the OPC values outside the map of R302. -/
theorem unassignedOpcodesAreNoCommand : Obligations.UnassignedOpcodesAreNoCommand := by
  intro w
  have hlt : w.toNat % 256 < 256 := Nat.mod_lt _ (by decide)
  simp only [decode_eq_unassigned_iff, opcField, assignedOpcodes, List.mem_cons, List.not_mem_nil, or_false]
  omega

/-- Settles O4: each word is the encoding of its command, by evaluating the encoder. -/
theorem wordsWrittenOutFromTheFormatDecode : Obligations.WordsWrittenOutFromTheFormatDecode := by
  simp only [Obligations.WordsWrittenOutFromTheFormatDecode, decode_eq_ok_iff]
  decide

end Sys2Proof.Machine
end

section
/-! The command cycle (40_control.md R400 to R405): what a CMD write does, which event a step takes, and how a command ends
(60_exceptions.md R600, R601, R621). -/

namespace Sys2Proof.Machine

open Sys2Proof

/-! ### Results that end a command -/

/-- The result commits or raises, so that settling it completes the command (R401). -/
def CmdResult.ends : CmdResult → Bool
  | .commit _ => true
  | .raise _ _ => true
  | .searching => false

@[simp] theorem CmdResult.ends_commit (t : State) : (CmdResult.commit t).ends = true := rfl

@[simp] theorem CmdResult.ends_raise (e : ErrCode) (t : State) : (CmdResult.raise e t).ends = true := rfl

/-- A check that raises ends the command where it fails, so that only what comes after it matters (R608). -/
@[simp] theorem CmdResult.ends_check (c : Prop) [Decidable c] (e : ErrCode) (t : State) (r : CmdResult) :
    (if c then .raise e t else r).ends = (decide c || r.ends) := by
  by_cases h : c <;> simp [h]

theorem writeResult_ends (j : Pair) (s : State) (r : Option Point) : (writeResult j s r).ends = true := by
  cases r <;> rfl

theorem egEncResult_ends (rd rc : Reg) (m : Nat) (c1 : Point) (s : State) (secret : Point) :
    (egEncResult rd rc m c1 s secret).ends = true := by
  cases secret <;> simp [egEncResult]

theorem egDecResult_ends (rd : Reg) (c2 : Nat) (s : State) (secret : Point) :
    (egDecResult rd c2 s secret).ends = true := by
  cases secret with
  | identity => rfl
  | affine sx sy => simp only [egDecResult]; split <;> rfl

theorem cmdStream_ends (cipher : List Byte → List Byte → List Byte → List Byte) (s : State) :
    (cmdStream cipher s).ends = true := by
  simp [cmdStream]

/-- Every command but the two prime searches ends, whatever the draws (R401, R621). -/
theorem commandResult_ends {i : Instr} (s : State) (hgen : ∀ rd ra, i ≠ .rsaGenPrime rd ra)
    (hkey : ∀ rd ra rb rc, i ≠ .rsaKeygen rd ra rb rc) : (commandResult s i).ends = true := by
  cases i with
  | nop | rsaPrimeTest rd ra aux => rfl
  | montMul rd ra rb rc => simp [commandResult, cmdMontMul]
  | modMul rd ra rb rc => simp [commandResult, cmdModMul]
  | modExp rd ra rb rc => simp [commandResult, cmdModExp]
  | modInv rd ra rc =>
    simp only [commandResult, cmdModInv, CmdResult.ends_check]
    split <;> simp
  | ecAdd rd ra rb => simp [commandResult, cmdEcAdd, writeResult_ends]
  | ecDbl rd ra => simp [commandResult, cmdEcDbl, writeResult_ends]
  | ecSmul rd ra rb => simp [commandResult, cmdEcSmul, writeResult_ends]
  | ecOnCurve rd ra => simp [commandResult, cmdEcOnCurve]
  | egKeygen rd rb =>
    simp only [commandResult, cmdEgKeygen, CmdResult.ends_check]
    split <;> simp
  | egEnc rd ra rb rc =>
    simp only [commandResult, cmdEgEnc, CmdResult.ends_check]
    split
    · simp
    · split <;> simp [egEncResult_ends]
  | egDec rd ra rb rc =>
    simp only [commandResult, cmdEgDec, CmdResult.ends_check]
    split <;> simp [egDecResult_ends]
  | rsaGenPrime rd ra => exact absurd rfl (hgen rd ra)
  | rsaKeygen rd ra rb rc => exact absurd rfl (hkey rd ra rb rc)
  | rsaSign ra rb => simp [commandResult, cmdRsaSign]
  | rsaVerify rd ra rb => simp [commandResult, cmdRsaVerify]
  | salsaQr => simp [commandResult, cmdSalsaQr]
  | salsaBlock => simp [commandResult, cmdSalsaBlock]
  | salsaKs => simp [commandResult, cmdSalsaKs]
  | salsaXor => exact cmdStream_ends streamXor s
  | ofbEnc | ofbDec => exact cmdStream_ends ofb s

/-! ### Completion -/

/-- How a settled command stands (R401, R600): completed without error, completed with one of the codes, or, where a
prime search goes on, with its status untouched (R621). -/
theorem settle_completes {s : State} {r : CmdResult} (hframe : r.Framed s) :
    Succeeded s (s.settle r) ∨ (∃ e : ErrCode, FailedWith e.code s (s.settle r)) ∨
      (r.ends = false ∧ (s.settle r).status = s.status) := by
  cases r with
  | commit t =>
    refine .inl ⟨?_, rfl⟩
    rw [State.settle_commit, State.finish_status, hframe.status, Status.complete]
  | raise e t =>
    refine .inr (.inl ⟨e, ?_, rfl⟩)
    rw [State.settle_raise, State.finish_status, hframe.status, Status.complete]
  | searching => exact .inr (.inr ⟨rfl, rfl⟩)

/-- What the host reads of a completed command (R107, R600): DONE, one known code, ERR where it is not OK, and the sticky
bits as they were. -/
def ReportsOneCode (s t : State) : Prop :=
  t.status.done = true ∧ t.status.err = decide (t.errcode ≠ 0#8) ∧ t.errcode.toNat ≤ 7 ∧
    t.status.ovr = s.status.ovr ∧ t.status.haz = s.status.haz ∧ t.status.buserr = s.status.buserr

theorem Succeeded.reportsOneCode {s t : State} (h : Succeeded s t) : ReportsOneCode s t := by
  obtain ⟨hstatus, hcode⟩ := h
  simp [ReportsOneCode, hstatus, hcode]

theorem FailedWith.reportsOneCode {e : ErrCode} {s t : State} (h : FailedWith e.code s t) : ReportsOneCode s t := by
  obtain ⟨hstatus, hcode⟩ := h
  simp [ReportsOneCode, hstatus, hcode, e.code_ne_zero, e.code_le]

/-- Settles O10: only a prime search can settle without completing, and it then stays BUSY. -/
theorem commandsCompleteWithOneCode : Obligations.CommandsCompleteWithOneCode := by
  intro i s hbusy
  refine ⟨_, exec_eq i s, ?_⟩
  obtain hok | ⟨e, hfailed⟩ | ⟨hpending, hstatus⟩ := settle_completes (commandResult_framed i s)
  · exact ⟨fun _ _ => by rw [hok.1], fun _ => hok.reportsOneCode⟩
  · exact ⟨fun _ _ => by rw [hfailed.1], fun _ => hfailed.reportsOneCode⟩
  · refine ⟨fun hgen hkey => ?_, fun hidle => ?_⟩
    · rw [commandResult_ends s hgen hkey] at hpending
      cases hpending
    · rw [hstatus, hbusy] at hidle
      cases hidle

/-- Completing a command from the state it began in writes no destination (R401, R600). -/
theorem finish_nothingWritten (s : State) (failed : Bool) (code : BitVec 8) :
    NothingWritten s (s.finish failed code) ∧ Quiet s (s.finish failed code) :=
  ⟨⟨fun _ _ => rfl, fun _ _ => rfl, fun _ => rfl, rfl, rfl, rfl, rfl, rfl, rfl, rfl⟩, rfl, rfl, rfl⟩

/-! ### One step -/

section
variable {s : State} {rest : List Event}

theorem sequencerStep_of_idle (hidle : s.status.busy = false) : sequencerStep s = .next s := by
  simp [sequencerStep, hidle]

theorem sequencerStep_of_decode {i : Instr} (hbusy : s.status.busy = true) (hdecode : decode s.cmd = .ok i) :
    sequencerStep s = exec i s := by
  simp [sequencerStep, State.fetch, hbusy, hdecode]

/-- R601: a held word that is no command completes with ILLEGAL_OPCODE. -/
theorem sequencerStep_of_no_command {e : DecodeError} (hbusy : s.status.busy = true)
    (hdecode : decode s.cmd = .error e) : sequencerStep s = .next (s.finish true 0x01#8) := by
  simp [sequencerStep, State.fetch, hbusy, hdecode, illegalWord, conclude_eq, ErrCode.code]

theorem step_of_agenda_nil (hadm : admitted s.cfg = true) (hagenda : s.agenda = []) : step s = sequencerStep s := by
  simp [step, hadm, hagenda]

theorem step_of_agenda_cons {e : Event} (hadm : admitted s.cfg = true) (hagenda : s.agenda = e :: rest) :
    step s = happen e { s with agenda := rest } := by
  simp [step, hadm, hagenda]

end

/-- Settles O5: the first event happens, and the sequencer's own step is decided by BUSY and the held word. -/
theorem stepRunsTheHeldCommand : Obligations.StepRunsTheHeldCommand := by
  intro s i rest hadm
  refine ⟨fun hbusy hdecode => ⟨fun hnil => ?_, fun hseq => ?_⟩, fun hidle => ⟨fun hnil => ?_, fun hseq => ?_⟩,
    fun a hhost => ?_, fun hrst => ?_⟩
  · rw [step_of_agenda_nil hadm hnil, sequencerStep_of_decode hbusy hdecode]
  · rw [step_of_agenda_cons hadm hseq]
    exact sequencerStep_of_decode hbusy hdecode
  · rw [step_of_agenda_nil hadm hnil, sequencerStep_of_idle hidle]
  · rw [step_of_agenda_cons hadm hseq]
    exact sequencerStep_of_idle hidle
  · rw [step_of_agenda_cons hadm hhost, happen]
  · rw [step_of_agenda_cons hadm hrst, happen]

/-! ### The CMD write -/

theorem hostWrite_cmd (s : State) (w : Word) :
    hostWrite 32 0x000#32 w s =
      if s.status.busy then { s with status := { s.status with ovr := true } } else s.accept w := by
  rw [hostWrite, reach_pageOffset s.cfg (rfl : pageOffset .cmd = some _)]

/-- Settles O6: the two branches of the CMD write. -/
theorem cmdWriteIsAcceptedOrDropped : Obligations.CmdWriteIsAcceptedOrDropped := by
  intro s w
  rw [hostAccess, hostWrite_cmd]
  constructor
  · intro hidle
    simp only [hidle, Bool.false_eq_true, if_false, State.accept, Status.accept]
  · exact fun hbusy => if_pos hbusy

/-! ### NOP -/

theorem exec_nop (s : State) : exec .nop s = .next (s.finish false 0x00#8) := rfl

/-- The row of OPC 0x00 holds NOP alone (R302). -/
theorem decode_of_opc_zero {w : Word} (hopc : opcField w = 0) : ∃ clear, decode w = ifClear clear .nop := by
  unfold decode
  rw [hopc]
  exact ⟨_, rfl⟩

/-- R405: the fields of a word with OPC 0x00 are all reserved, so that only 0x00000000 is NOP. -/
theorem decode_eq_reservedField_of_opc_zero {w : Word} (hopc : opcField w = 0) (hw : w ≠ 0x00000000#32) :
    decode w = .error .reservedField := by
  obtain ⟨clear, hrow⟩ := decode_of_opc_zero hopc
  cases clear with
  | false => exact hrow
  | true => exact absurd (encode_eq_of_decode hrow).symm hw

/-- Settles O28: NOP completes from the state it began in, and so does a word of OPC 0x00 that is not NOP. -/
theorem nopOnlyCompletes : Obligations.NopOnlyCompletes := by
  refine ⟨fun s => ?_, rfl, fun w hopc hw => ⟨decode_eq_reservedField_of_opc_zero hopc hw, ?_⟩⟩
  · exact ⟨_, exec_nop s, ⟨rfl, rfl⟩, finish_nothingWritten s _ _⟩
  · intro s hadm hbusy hnil hcmd
    have hdecode : decode s.cmd = .error .reservedField := hcmd ▸ decode_eq_reservedField_of_opc_zero hopc hw
    refine ⟨_, ?_, ⟨rfl, rfl⟩, finish_nothingWritten s true 0x01#8⟩
    rw [step_of_agenda_nil hadm hnil, sequencerStep_of_no_command hbusy hdecode]

end Sys2Proof.Machine
end

section
/-! The Montgomery multiplier family (41_montgomery_mult.md R410 to R415): what MONT_MUL, MOD_MUL and MOD_EXP write. -/

namespace Sys2Proof.Machine

open Sys2Proof

/-! ### A command that commits one register -/

/-- A command that commits a value to one register completes with it there and with no other destination written (R401). -/
theorem exec_of_commit_setReg {i : Instr} {s : State} {rd : Reg} {v : Nat}
    (h : commandResult s i = .commit (s.setReg rd v)) :
    ∃ t, exec i s = .next t ∧ t.reg rd = v ∧ t.written rd = true ∧ Succeeded s t ∧ OnlyRegisters [rd] [] s t ∧
      Quiet s t := by
  refine ⟨(s.setReg rd v).finish false 0x00#8, by rw [exec_eq, h, State.settle_commit],
    State.reg_setReg_self s rd v, State.written_setReg_self s rd v, ⟨rfl, rfl⟩, ⟨fun r hr => ?_, ?_⟩, rfl, rfl, rfl⟩
  · rw [State.finish_x, State.setReg_getElem_of_ne s v (List.ne_of_not_mem_cons hr)]
  · exact ⟨fun _ _ => rfl, fun _ => rfl, rfl, rfl, rfl, rfl, rfl, rfl, rfl⟩

/-! ### The inverse of R_MONT -/

/-- R410: RInv(m) is the inverse of R_MONT modulo an odd m. -/
theorem montRadix_mul_rInv (c : Config) {m : Nat} (hodd : m % 2 = 1) : montRadix c * rInv c m ≡ 1 [MOD m] := by
  have hcoprime : Nat.gcd (montRadix c) m = 1 := (Nat.coprime_two_left.2 (Nat.odd_iff.2 hodd)).pow_left c.opw
  obtain ⟨r, hr, -, hinv⟩ := (modInv_nat (montRadix c) m (by omega)).1 hcoprime
  rw [rInv, hr]
  exact hinv

/-- R411: R_MONT times the Montgomery product is the product. -/
theorem montRadix_mul_montgomeryProduct (c : Config) {m : Nat} (hodd : m % 2 = 1) (a b : Nat) :
    montRadix c * (a * b * rInv c m % m) ≡ a * b [MOD m] := calc
  montRadix c * (a * b * rInv c m % m) ≡ montRadix c * (a * b * rInv c m) [MOD m] := (Nat.mod_modEq _ m).mul_left _
  _ = a * b * (montRadix c * rInv c m) := by ring
  _ ≡ a * b * 1 [MOD m] := (montRadix_mul_rInv c hodd).mul_left _
  _ = a * b := mul_one _

/-! ### The three commands -/

section
variable {rd ra rb rc : Reg} {s : State}

theorem cmdMontMul_eq_commit (hw : Written [ra, rb, rc] s) (hodd : s.reg rc % 2 = 1) (ha : s.reg ra < s.reg rc)
    (hb : s.reg rb < s.reg rc) :
    cmdMontMul rd ra rb rc s =
      .commit (s.setReg rd (s.reg ra * s.reg rb * rInv s.cfg (s.reg rc) % s.reg rc)) := by
  have hodd' : s.reg rc % 2 ≠ 0 := by omega
  have hrange : ¬ (s.reg ra ≥ s.reg rc ∨ s.reg rb ≥ s.reg rc) := by omega
  simp only [cmdMontMul, State.noteRegs_of_written s hw, if_neg hodd', if_neg hrange]

theorem cmdModMul_eq_commit (hw : Written [ra, rb, rc] s) (hm : s.reg rc ≠ 0) :
    cmdModMul rd ra rb rc s = .commit (s.setReg rd (s.reg ra * s.reg rb % s.reg rc)) := by
  simp only [cmdModMul, State.noteRegs_of_written s hw, if_neg hm]

theorem cmdModExp_eq_commit (hw : Written [ra, rb, rc] s) (hm : s.reg rc ≠ 0) :
    cmdModExp rd ra rb rc s = .commit (s.setReg rd (s.reg ra ^ s.reg rb % s.reg rc)) := by
  simp only [cmdModExp, State.noteRegs_of_written s hw, if_neg hm, modExp_eq _ _ _ hm]

end

/-- Settles O29: the committed value is the product times the inverse of R_MONT, reduced mod m. -/
theorem montMulWritesTheMontgomeryProduct : Obligations.MontMulWritesTheMontgomeryProduct := by
  intro rd ra rb rc s hw hodd ha hb
  obtain ⟨t, hexec, hreg, hrest⟩ :=
    exec_of_commit_setReg (i := .montMul rd ra rb rc) (cmdMontMul_eq_commit hw hodd ha hb)
  refine ⟨t, hexec, ?_, ?_, hrest⟩
  · rw [hreg]
    exact Nat.mod_lt _ (by omega)
  · rw [hreg]
    exact montRadix_mul_montgomeryProduct s.cfg hodd _ _

/-- Settles O30: the committed value is the reduced product, whatever the sizes of the operands. -/
theorem modMulWritesTheProduct : Obligations.ModMulWritesTheProduct := by
  intro rd ra rb rc s hw hm
  exact exec_of_commit_setReg (i := .modMul rd ra rb rc) (cmdModMul_eq_commit hw hm)

/-- Settles O31: repeated squaring computes the exact power (`modExp_eq`), which is the committed value. -/
theorem modExpWritesTheExactPower : Obligations.ModExpWritesTheExactPower := by
  intro rd ra rb rc s hw hm
  exact exec_of_commit_setReg (i := .modExp rd ra rb rc) (cmdModExp_eq_commit hw hm)

end Sys2Proof.Machine
end

section
/-! The modular inverse family (42_modular_inverse.md R430, R431): what MOD_INV writes, and where it raises. -/

namespace Sys2Proof.Machine

open Sys2Proof

/-- A command that raises from the state it began in completes with that code and with nothing written (R600). -/
theorem exec_of_raise {i : Instr} {s : State} {e : ErrCode} (h : commandResult s i = .raise e s) :
    ∃ t, exec i s = .next t ∧ FailedWith e.code s t ∧ NothingWritten s t ∧ Quiet s t := by
  refine ⟨s.finish true e.code, ?_, ⟨rfl, rfl⟩, finish_nothingWritten s true e.code⟩
  rw [exec_eq, h, State.settle_raise]

section
variable {rd ra rc : Reg} {s : State}

theorem cmdModInv_eq_commit {v : Nat} (hw : Written [ra, rc] s) (hm : s.reg rc ≠ 0)
    (hv : modInv (s.reg ra) (s.reg rc) = some v) : cmdModInv rd ra rc s = .commit (s.setReg rd v) := by
  simp only [cmdModInv, State.noteRegs_of_written s hw, if_neg hm, hv]

theorem cmdModInv_eq_raise (hw : Written [ra, rc] s) (hm : s.reg rc ≠ 0)
    (hv : modInv (s.reg ra) (s.reg rc) = none) : cmdModInv rd ra rc s = .raise .noInverse s := by
  simp only [cmdModInv, State.noteRegs_of_written s hw, if_neg hm, hv]

end

/-- Settles O32: ModInv answers the inverse exactly where the gcd is 1 (`modInv_nat`), and MOD_INV commits that answer or
raises. -/
theorem modInvWritesTheInverseOrRaises : Obligations.ModInvWritesTheInverseOrRaises := by
  intro rd ra rc s hw hm
  obtain ⟨hinverse, hnone⟩ := modInv_nat (s.reg ra) (s.reg rc) hm
  constructor
  · intro hgcd
    obtain ⟨r, hr, hlt, hcong⟩ := hinverse hgcd
    obtain ⟨t, hexec, hreg, hrest⟩ :=
      exec_of_commit_setReg (i := .modInv rd ra rc) (cmdModInv_eq_commit hw hm hr)
    exact ⟨t, hexec, hreg ▸ hlt, hreg ▸ hcong, hrest⟩
  · intro hgcd
    exact exec_of_raise (i := .modInv rd ra rc) (cmdModInv_eq_raise hw hm (hnone hgcd))

end Sys2Proof.Machine
end

section
/-! The elliptic-curve group family (43_ec_group.md R450 to R464): what EC_ON_CURVE, EC_ADD, EC_DBL and EC_SMUL write, and
where they raise. -/

namespace Sys2Proof.Machine

open Sys2Proof

/-! ### A command that ends with a point -/

/-- WritePoint(j, O) puts 0 in both registers of the pair (R103). -/
theorem State.reg_writePoint_identity (s : State) (j : Pair) :
    (s.writePoint j .identity).reg (pairX j) = 0 ∧ (s.writePoint j .identity).reg (pairY j) = 0 := by
  change ((s.setReg (pairX j) 0).setReg (pairY j) 0).reg (pairX j) = 0 ∧
    ((s.setReg (pairX j) 0).setReg (pairY j) 0).reg (pairY j) = 0
  exact ⟨by rw [State.reg_setReg, if_neg (pairX_ne_pairY j j), State.reg_setReg_self], State.reg_setReg_self _ _ _⟩

/-- WritePoint writes one pair and its tag, draws nothing and records nothing (R103). -/
theorem finish_writePoint_frame (s : State) (j : Pair) (p : Point) (failed : Bool) (code : BitVec 8) :
    OnlyRegisters [pairX j, pairY j] [j] s ((s.writePoint j p).finish failed code) ∧
      Quiet s ((s.writePoint j p).finish failed code) := by
  refine ⟨⟨fun r hr => ?_, fun i hi => ?_, ?_⟩, ?_⟩
  · obtain ⟨hx, hy⟩ := List.ne_and_not_mem_of_not_mem_cons hr
    exact State.writePoint_getElem_of_ne s j p hx (List.ne_of_not_mem_cons hy)
  · exact (State.isIdentity_writePoint s j p i).trans (if_neg (List.ne_of_not_mem_cons hi))
  · cases p <;> exact ⟨fun _ => rfl, rfl, rfl, rfl, rfl, rfl, rfl, rfl⟩
  · cases p <;> exact ⟨rfl, rfl, rfl⟩

section
variable {i : Instr} {s : State} {j : Pair} {result : Option Point}

/-- Where the result is a point, the command completes with it in its pair and with no other destination written (R401). -/
theorem exec_of_writeResult_some {p : Point} (h : commandResult s i = writeResult j s result) (hp : result = some p) :
    ∃ t, exec i s = .next t ∧ t.readPoint j = p ∧ (p = .identity → t.reg (pairX j) = 0 ∧ t.reg (pairY j) = 0) ∧
      PairWritten j t ∧ Succeeded s t ∧ OnlyRegisters [pairX j, pairY j] [j] s t ∧ Quiet s t := by
  refine ⟨(s.writePoint j p).finish false 0x00#8, by rw [exec_eq, h, hp, writeResult, State.settle_commit],
    State.readPoint_writePoint s j p, fun hO => hO ▸ State.reg_writePoint_identity s j,
    State.written_writePoint s j p, ⟨?_, rfl⟩, finish_writePoint_frame s j p _ _⟩
  rw [State.finish_status, (State.writePoint_kept s j p).status, Status.complete]

/-- Where there is no result, the command raises NO_INVERSE with nothing written (R600, R606). -/
theorem exec_of_writeResult_none (h : commandResult s i = writeResult j s result) (hnone : result = none) :
    ∃ t, exec i s = .next t ∧ FailedWith 0x06#8 s t ∧ NothingWritten s t ∧ Quiet s t :=
  exec_of_raise (e := .noInverse) (by rw [h, hnone, writeResult])

end

/-! ### The commands past their checks -/

section
variable {rd ra rb : Reg} {s : State}

theorem cmdEcOnCurve_eq_commit (heven : Reg.isEven ra = true) (hready : PointReady (pairOf ra) s)
    (hrange : (s.readPoint (pairOf ra)).inRange s.cfg.curve = true) :
    cmdEcOnCurve rd ra s = .commit (s.setReg rd (isOnCurve s.cfg.curve (s.readPoint (pairOf ra))).toNat) := by
  simp [cmdEcOnCurve, heven, State.notePoint_of_written s hready, hrange]

theorem cmdEcAdd_eq_writeResult (hwf : (Instr.ecAdd rd ra rb).wellFormed = true) (hA : PointReady (pairOf ra) s)
    (hB : PointReady (pairOf rb) s) (hAr : (s.readPoint (pairOf ra)).inRange s.cfg.curve = true)
    (hBr : (s.readPoint (pairOf rb)).inRange s.cfg.curve = true) :
    cmdEcAdd rd ra rb s =
      writeResult (pairOf rd) s (pointAdd s.cfg.curve (s.readPoint (pairOf ra)) (s.readPoint (pairOf rb))) := by
  simp only [Instr.wellFormed] at hwf
  simp [cmdEcAdd, hwf, State.notePoint_of_written s hA, State.notePoint_of_written s hB, hAr, hBr]

theorem cmdEcDbl_eq_writeResult (hwf : (Instr.ecDbl rd ra).wellFormed = true) (hA : PointReady (pairOf ra) s)
    (hAr : (s.readPoint (pairOf ra)).inRange s.cfg.curve = true) :
    cmdEcDbl rd ra s =
      writeResult (pairOf rd) s (pointAdd s.cfg.curve (s.readPoint (pairOf ra)) (s.readPoint (pairOf ra))) := by
  simp only [Instr.wellFormed] at hwf
  simp [cmdEcDbl, hwf, State.notePoint_of_written s hA, hAr]

/-- R462: EC_ADD of two pairs that show the same point makes the checks of EC_DBL, the range check among them, and the same
addition. -/
theorem cmdEcAdd_eq_cmdEcDbl (heven : Reg.isEven rb = true) (hA : PointReady (pairOf ra) s)
    (hB : PointReady (pairOf rb) s) (hsame : s.readPoint (pairOf rb) = s.readPoint (pairOf ra)) :
    cmdEcAdd rd ra rb s = cmdEcDbl rd ra s := by
  simp only [cmdEcAdd, cmdEcDbl, State.notePoint_of_written s hA, State.notePoint_of_written s hB, hsame, heven,
    Bool.and_true, Bool.and_self]

theorem cmdEcSmul_eq_writeResult (hwf : (Instr.ecSmul rd ra rb).wellFormed = true) (hk : Written [ra] s)
    (hB : PointReady (pairOf rb) s) (hBr : (s.readPoint (pairOf rb)).inRange s.cfg.curve = true)
    (hlt : s.reg ra < 2 ^ 256) :
    cmdEcSmul rd ra rb s =
      writeResult (pairOf rd) s (scalarMult s.cfg.curve (s.reg ra) (s.readPoint (pairOf rb))) := by
  simp only [Instr.wellFormed] at hwf
  have hscalar : ¬ (s.reg ra ≥ 2 ^ Config.scalarBits) := Nat.not_le.2 hlt
  simp only [cmdEcSmul, hwf, State.noteRegs_of_written s hk, State.notePoint_of_written s hB, hBr, if_neg hscalar,
    Bool.not_true, Bool.false_eq_true, if_false]

end

/-! ### IsOnCurve -/

/-- R453: the curve equation of a finite point, as a congruence of natural numbers. -/
theorem isOnCurve_affine (c : Curve) (x y : Nat) :
    isOnCurve c (.affine x y) = decide (y ^ 2 % c.p = (x ^ 3 + c.a * x + c.b) % c.p) := by
  rw [isOnCurve, decide_eq_decide, ← Int.dvd_iff_emod_eq_zero, eq_comm]
  change _ ↔ x ^ 3 + c.a * x + c.b ≡ y ^ 2 [MOD c.p]
  rw [Nat.modEq_iff_dvd]
  push_cast
  ring_nf

/-- Settles O33: the committed value is the truth value of the curve equation (`isOnCurve_affine`), which O satisfies. -/
theorem ecOnCurveWritesTheTruthValue : Obligations.EcOnCurveWritesTheTruthValue := by
  intro rd ra s heven hready hrange
  obtain ⟨t, hexec, hreg, hrest⟩ :=
    exec_of_commit_setReg (i := .ecOnCurve rd ra) (cmdEcOnCurve_eq_commit heven hready hrange)
  refine ⟨t, hexec, hreg.trans ?_, hrest⟩
  cases s.readPoint (pairOf ra) with
  | identity => rfl
  | affine x y => rw [isOnCurve_affine, Bool.toNat, Bool.cond_decide]

/-! ### PointAdd -/

/-- R454: the identity is neutral on the right (on the left it is by definition). -/
@[simp] theorem pointAdd_identity_right (c : Curve) (p : Point) : pointAdd c p .identity = some p := by cases p <;> rfl

@[simp] theorem pointAdd_identity_left (c : Curve) (p : Point) : pointAdd c .identity p = some p := rfl

theorem pointAdd_vertical (c : Curve) (x : Nat) {y1 y2 : Nat} (hy : y1 ≠ y2) :
    pointAdd c (.affine x y1) (.affine x y2) = some .identity := if_pos ⟨rfl, hy⟩

theorem inRange_affine {c : Curve} {x y : Nat} (hx : x < c.p) (hy : y < c.p) : (Point.affine x y).inRange c = true := by
  simp [Point.inRange, hx, hy]

/-- (x3, y3) are the coordinates that R454 computes from the slope lam, the point (x1, y1) and the other point's x2, each
reduced mod p (R457). -/
def ChordSum (c : Curve) (lam x1 y1 x2 x3 y3 : Nat) : Prop :=
  x3 < c.p ∧ y3 < c.p ∧ x3 + x1 + x2 ≡ lam * lam [MOD c.p] ∧ y3 + y1 + lam * x3 ≡ lam * x1 [MOD c.p]

/-- R454, R457: off the vertical line, where there is a slope, PointAdd answers the sum of that slope. -/
theorem pointAdd_of_chordSlope {c : Curve} (hp : c.p ≠ 0) {x1 y1 x2 y2 lam : Nat} (hline : ¬ (x1 = x2 ∧ y1 ≠ y2))
    (hslope : chordSlope c x1 y1 x2 y2 = some lam) :
    ∃ x3 y3, pointAdd c (.affine x1 y1) (.affine x2 y2) = some (.affine x3 y3) ∧ ChordSum c lam x1 y1 x2 x3 y3 := by
  obtain ⟨hx3, hx⟩ := residue hp ((lam * lam : Int) - x1 - x2)
  obtain ⟨hy3, hy⟩ := residue hp ((lam : Int) * ((x1 : Int) - (((lam * lam : Int) - x1 - x2) % c.p).toNat) - y1)
  refine ⟨_, _, by simp only [pointAdd, if_neg hline, hslope], hx3, hy3, ?_, ?_⟩
  · rw [← ZMod.natCast_eq_natCast_iff]
    push_cast at hx ⊢
    linear_combination hx
  · rw [← ZMod.natCast_eq_natCast_iff]
    push_cast at hy ⊢
    linear_combination hy

/-- R454, R456: points with different x have a secant slope, since p is prime. -/
theorem chordSlope_secant {c : Curve} (hc : curveOk c) {x1 x2 : Nat} (y1 y2 : Nat) (h1 : x1 < c.p) (h2 : x2 < c.p)
    (hx : x1 ≠ x2) : ∃ lam, chordSlope c x1 y1 x2 y2 = some lam ∧ lam * x2 + y1 ≡ lam * x1 + y2 [MOD c.p] := by
  obtain ⟨hprime, -, hgt, -⟩ := hc
  have : Fact c.p.Prime := ⟨hprime⟩
  obtain ⟨hsecant, -, -⟩ := chordSlope_cast (y1 := y1) (y2 := y2) hprime (by omega) h1 h2
  obtain ⟨lam, hslope, hlam⟩ := hsecant hx
  refine ⟨lam, hslope, (ZMod.natCast_eq_natCast_iff _ _ _).1 ?_⟩
  have hne : (x1 : ZMod c.p) - x2 ≠ 0 := fun h => hx (eq_of_cast h1 h2 (sub_eq_zero.1 h))
  rw [eq_div_iff hne] at hlam
  push_cast
  linear_combination -hlam

/-- R454, R456: a point with y ≠ 0 has a tangent slope, since p is an odd prime. -/
theorem chordSlope_tangent {c : Curve} (hc : curveOk c) {x y : Nat} (hx : x < c.p) (hpos : 0 < y) (hy : y < c.p) :
    ∃ lam, chordSlope c x y x y = some lam ∧ 2 * y * lam ≡ 3 * x ^ 2 + c.a [MOD c.p] := by
  obtain ⟨hprime, -, hgt, -⟩ := hc
  have : Fact c.p.Prime := ⟨hprime⟩
  have hy0 : (y : ZMod c.p) ≠ 0 := fun h =>
    hpos.ne' (eq_of_cast hy hprime.pos (h.trans Nat.cast_zero.symm))
  have h20 : (2 : ZMod c.p) ≠ 0 := fun h =>
    absurd (eq_of_cast (a := 2) (b := 0) (by omega) hprime.pos (by exact_mod_cast h)) (by decide)
  obtain ⟨-, htangent, -⟩ := chordSlope_cast (y1 := y) (y2 := y) hprime (by omega) hx hx
  obtain ⟨lam, hslope, hlam⟩ := htangent rfl hy0
  refine ⟨lam, hslope, (ZMod.natCast_eq_natCast_iff _ _ _).1 ?_⟩
  rw [eq_div_iff (mul_ne_zero h20 hy0)] at hlam
  push_cast
  linear_combination hlam

/-- R455 (b): the double of a point with y = 0 has no slope. -/
theorem pointAdd_self_of_y_zero {c : Curve} (hc : curveOk c) {x : Nat} (hx : x < c.p) :
    pointAdd c (.affine x 0) (.affine x 0) = none := by
  obtain ⟨hprime, -, hgt, -⟩ := hc
  have : Fact c.p.Prime := ⟨hprime⟩
  obtain ⟨-, -, hnone⟩ := chordSlope_cast (y1 := 0) (y2 := 0) hprime (by omega) hx hx
  simp [pointAdd, hnone rfl Nat.cast_zero]

/-- Settles O34: in each case PointAdd answers without a slope, and that answer is written. -/
theorem ecAddIdentityAndVerticalLine : Obligations.EcAddIdentityAndVerticalLine := by
  rintro rd ra rb s _ _ r hwf hA hB rfl rfl hAr hBr hcase
  refine exec_of_writeResult_some (i := .ecAdd rd ra rb) (cmdEcAdd_eq_writeResult hwf hA hB hAr hBr) ?_
  obtain ⟨hO, rfl⟩ | ⟨hO, rfl⟩ | ⟨x, y1, y2, hp, hq, hy, rfl⟩ := hcase
  · rw [hO, pointAdd_identity_left]
  · rw [hO, pointAdd_identity_right]
  · rw [hp, hq, pointAdd_vertical _ _ hy]

/-- Settles O35: the secant has a slope (`chordSlope_secant`), and the sum of that slope is written. -/
theorem ecAddWritesTheSecantSum : Obligations.EcAddWritesTheSecantSum := by
  intro rd ra rb s x1 y1 x2 y2 hc hwf hA hB hP hQ hx1 hy1 hx2 hy2 hne
  obtain ⟨lam, hslope, hlam⟩ := chordSlope_secant hc y1 y2 hx1 hx2 hne
  obtain ⟨x3, y3, hsum, hx3, hy3, hx, hy⟩ := pointAdd_of_chordSlope hc.1.ne_zero (fun h => hne h.1) hslope
  obtain ⟨t, hexec, hread, -, hrest⟩ :=
    exec_of_writeResult_some (i := .ecAdd rd ra rb)
      (cmdEcAdd_eq_writeResult hwf hA hB (hP ▸ inRange_affine hx1 hy1) (hQ ▸ inRange_affine hx2 hy2))
      (by rw [hP, hQ, hsum])
  exact ⟨t, lam, x3, y3, hexec, hread, hx3, hy3, hlam, hx, hy, hrest⟩

/-- Settles O36: O doubles to O, a point with y = 0 has no tangent slope (`pointAdd_self_of_y_zero`) and any other has one
(`chordSlope_tangent`). -/
theorem ecDblDoublesOrRaises : Obligations.EcDblDoublesOrRaises := by
  intro rd ra s hc hwf hA
  refine ⟨fun hO => ?_, fun x hP hx => ?_, fun x y hP hx hpos hy => ?_, fun rb heven hB hsame => ?_⟩
  · obtain ⟨t, hexec, hread, -, hrest⟩ :=
      exec_of_writeResult_some (i := .ecDbl rd ra) (cmdEcDbl_eq_writeResult hwf hA (hO ▸ rfl))
        (by rw [hO, pointAdd_identity_left])
    exact ⟨t, hexec, hread, hrest⟩
  · exact exec_of_writeResult_none (i := .ecDbl rd ra)
      (cmdEcDbl_eq_writeResult hwf hA (hP ▸ inRange_affine hx hc.1.pos)) (by rw [hP, pointAdd_self_of_y_zero hc hx])
  · obtain ⟨lam, hslope, hlam⟩ := chordSlope_tangent hc hx hpos hy
    obtain ⟨x3, y3, hsum, hx3, hy3, hxs, hys⟩ := pointAdd_of_chordSlope hc.1.ne_zero (fun h => h.2 rfl) hslope
    obtain ⟨t, hexec, hread, -, hrest⟩ :=
      exec_of_writeResult_some (i := .ecDbl rd ra) (cmdEcDbl_eq_writeResult hwf hA (hP ▸ inRange_affine hx hy))
        (by rw [hP, hsum])
    exact ⟨t, lam, x3, y3, hexec, hread, hx3, hy3, hlam, hxs, hys, hrest⟩
  · rw [exec_eq, exec_eq, commandResult, commandResult, cmdEcAdd_eq_cmdEcDbl heven hA hB hsame]

/-! ### The scan of ScalarMult -/

/-- Turn i of R459's scan, from the accumulator and the running point to the next ones, without an addition that raises. -/
def ScanTurn (c : Curve) (k i : Nat) (acc run acc' run' : Point) : Prop :=
  (if k / 2 ^ i % 2 = 1 then pointAdd c acc run = some acc' else acc' = acc) ∧ pointAdd c run run = some run'

/-- The machine's scan makes one turn and goes on from there, or raises. -/
theorem scan_succ_eq_some_iff {c : Curve} {k n i : Nat} {acc run r : Point} :
    scan c k (n + 1) i acc run = some r ↔
      ∃ acc' run', ScanTurn c k i acc run acc' run' ∧ scan c k n (i + 1) acc' run' = some r := by
  have hadded (acc' : Point) : (if k.testBit i then pointAdd c acc run else some acc) = some acc' ↔
      if k / 2 ^ i % 2 = 1 then pointAdd c acc run = some acc' else acc' = acc := by
    rw [Nat.testBit_eq_decide_div_mod_eq]
    by_cases hbit : k / 2 ^ i % 2 = 1 <;> simp [hbit, eq_comm]
  simp only [ScanTurn, ← hadded, scan]
  constructor
  · intro h
    split at h
    · cases h
    · next acc' hacc =>
      split at h
      · cases h
      · next run' hrun => exact ⟨acc', run', ⟨hacc, hrun⟩, h⟩
  · rintro ⟨acc', run', ⟨hacc, hrun⟩, h⟩
    rw [hacc, hrun]
    exact h

/-- A sequence of points with one put before it. -/
def prepend (p : Point) (f : Nat → Point) : Nat → Point
  | 0 => p
  | m + 1 => f m

/-- R459: the machine's scan answers r exactly where its turns follow one another as two sequences of points, the
accumulators ending in r. -/
theorem scan_eq_some_iff {c : Curve} {k : Nat} {r : Point} (n i : Nat) (acc run : Point) :
    scan c k n i acc run = some r ↔
      ∃ A R : Nat → Point, A 0 = acc ∧ R 0 = run ∧
        (∀ m, m < n → ScanTurn c k (i + m) (A m) (R m) (A (m + 1)) (R (m + 1))) ∧ A n = r := by
  induction n generalizing i acc run with
  | zero =>
    constructor
    · intro h
      exact ⟨fun _ => acc, fun _ => run, rfl, rfl, nofun, Option.some.inj h⟩
    · rintro ⟨A, R, rfl, -, -, rfl⟩
      rfl
  | succ n ih =>
    rw [scan_succ_eq_some_iff]
    simp only [ih]
    constructor
    · rintro ⟨_, _, hturn, A, R, rfl, rfl, hturns, hr⟩
      refine ⟨prepend acc A, prepend run R, rfl, rfl, fun m hm => ?_, hr⟩
      cases m with
      | zero => exact hturn
      | succ m =>
        have hnext := hturns m (by omega)
        rwa [Nat.add_right_comm, Nat.add_assoc] at hnext
    · rintro ⟨A, R, rfl, rfl, hturns, hr⟩
      refine ⟨A 1, R 1, hturns 0 (by omega), fun m => A (m + 1), fun m => R (m + 1), rfl, rfl, fun m hm => ?_, hr⟩
      have hnext := hturns (m + 1) (by omega)
      rwa [Nat.add_comm m 1, ← Nat.add_assoc, Nat.add_comm 1 m] at hnext

/-- R459: ScalarMult answers what the scan answers. -/
theorem scalarMult_eq_some_iff {c : Curve} {k : Nat} {p r : Point} :
    scalarMult c k p = some r ↔ ScanAnswers c k p r := by
  rw [scalarMult, Config.scalarBits, scan_eq_some_iff]
  simp only [Nat.zero_add]
  rfl

/-- Above the highest bit of k the accumulator stays. -/
theorem scan_of_lt {c : Curve} {k n i : Nat} {acc run r : Point} (hk : k < 2 ^ i)
    (h : scan c k n i acc run = some r) : r = acc := by
  induction n generalizing i acc run with
  | zero => exact (Option.some.inj h).symm
  | succ n ih =>
    obtain ⟨acc', run', ⟨hacc, -⟩, h⟩ := scan_succ_eq_some_iff.1 h
    rw [Nat.div_eq_of_lt hk, if_neg (by decide)] at hacc
    exact (ih (hk.trans (Nat.pow_lt_pow_succ (by decide))) h).trans hacc

/-- R459: where ScalarMult answers, 0·P is O, 1·P is P, and 2·P is P + P. -/
theorem scalarMult_small {c : Curve} {p r : Point} :
    (scalarMult c 0 p = some r → r = .identity) ∧ (scalarMult c 1 p = some r → r = p) ∧
      (scalarMult c 2 p = some r → pointAdd c p p = some r) := by
  refine ⟨fun h => scan_of_lt (by decide) h, fun h => ?_, fun h => ?_⟩
  · obtain ⟨acc, run, ⟨hacc, -⟩, h⟩ := scan_succ_eq_some_iff.1 h
    rw [if_pos (by decide), pointAdd_identity_left, Option.some.injEq] at hacc
    exact hacc ▸ scan_of_lt (by decide) h
  · obtain ⟨acc, run, ⟨hacc, hrun⟩, h⟩ := scan_succ_eq_some_iff.1 h
    rw [if_neg (by decide)] at hacc
    subst hacc
    obtain ⟨acc', run', ⟨hacc', -⟩, h⟩ := scan_succ_eq_some_iff.1 h
    rw [if_pos (by decide), pointAdd_identity_left, Option.some.injEq] at hacc'
    rw [hrun, hacc', scan_of_lt (by decide) h]

/-- R461 (b): k·(j·G) = (j·k mod n)·G, both answered, since G has the odd order n. -/
theorem scalarMult_scalarMult_basePoint {c : Curve} (hc : curveOk c) {j k : Nat} {p : Point} (hj : j < 2 ^ 256)
    (hk : k < 2 ^ 256) (hp : scalarMult c j (basePoint c) = some p) :
    ∃ r, scalarMult c k p = some r ∧ scalarMult c (j * k % c.n) (basePoint c) = some r := by
  have : Fact c.p.Prime := ⟨hc.1⟩
  obtain ⟨G, hG, hzero, hodd, hn⟩ := exists_base hc
  have hmod : j * k % c.n < 2 ^ 256 := (Nat.mod_lt _ (by omega)).trans hn
  have hP : Shows c p (j • G) := (scalarMult_shows hc hj hG).1 p hp
  have hzeroP : c.n • j • G = 0 := by rw [nsmul_left_comm, hzero, nsmul_zero]
  obtain ⟨hshow, hanswers⟩ := scalarMult_shows hc hk hP
  obtain ⟨hshow', hanswers'⟩ := scalarMult_shows hc hmod hG
  obtain ⟨r, hr⟩ := hanswers c.n hodd hzeroP
  obtain ⟨r', hr'⟩ := hanswers' c.n hodd hzero
  have hsame : k • j • G = (j * k % c.n) • G := calc
    k • j • G = (j * k) • G := (mul_nsmul G j k).symm
    _ = (c.n * (j * k / c.n) + j * k % c.n) • G := by rw [Nat.div_add_mod]
    _ = (j * k % c.n) • G := by rw [add_nsmul, mul_nsmul, hzero, nsmul_zero, zero_add]
  have hrr : r = r' := (hsame ▸ hshow r hr).unique (hshow' r' hr')
  exact ⟨r, hr, hrr ▸ hr'⟩

/-- Settles O37: EC_SMUL writes or raises as `scalarMult` answers, which is what the scan of R459 answers
(`scalarMult_eq_some_iff`); R461 (b) is the law of the group. -/
theorem ecSmulWritesTheMultiple : Obligations.EcSmulWritesTheMultiple := by
  refine ⟨fun rd ra rb s hwf hw hB hBr hk => ?_, fun c k p r _ => scalarMult_eq_some_iff,
    fun c j k p hc hj hk hp => scalarMult_scalarMult_basePoint hc hj hk hp⟩
  have hresult : commandResult s (.ecSmul rd ra rb) = _ := cmdEcSmul_eq_writeResult hwf hw hB hBr hk
  constructor
  · intro r hscan
    have hr := scalarMult_eq_some_iff.2 hscan
    obtain ⟨t, hexec, hread, -, hrest⟩ := exec_of_writeResult_some hresult hr
    obtain ⟨h0, h1, h2⟩ := scalarMult_small (c := s.cfg.curve) (p := s.readPoint (pairOf rb)) (r := r)
    exact ⟨t, hexec, hread, fun h => h0 (h ▸ hr), fun h => h1 (h ▸ hr), fun h => h2 (h ▸ hr), hrest⟩
  · intro hno
    exact exec_of_writeResult_none hresult (Option.eq_none_iff_forall_ne_some.2
      fun r hr => hno r (scalarMult_eq_some_iff.1 hr))

/-! ### Closure -/

/-- Settles O38: points of the curve show points of the group (`exists_shows`), sums and multiples of those are shown by
what PointAdd and ScalarMult answer, and a point that is shown lies on the curve. -/
theorem sumsAndMultiplesStayOnTheCurve : Obligations.SumsAndMultiplesStayOnTheCurve := by
  intro c p q r k hc hpr hqr hp hq
  have : Fact c.p.Prime := ⟨hc.1⟩
  obtain ⟨P, hP⟩ := exists_shows hc hpr hp
  obtain ⟨Q, hQ⟩ := exists_shows hc hqr hq
  constructor
  · intro hsum
    obtain ⟨r', hr', hshow⟩ | ⟨hnone, -⟩ := pointAdd_shows hc hP hQ
    · obtain rfl := Option.some.inj (hsum.symm.trans hr')
      exact hshow.inRange_onCurve.symm
    · rw [hnone] at hsum
      cases hsum
  · intro hmultiple
    have hshow := (scan_shows hc k _ 0 .identity p 0 P trivial hP).1 r hmultiple
    exact hshow.inRange_onCurve.symm

end Sys2Proof.Machine
end

section
/-! The EC-ElGamal family (44_ecc_elgamal.md R480 to R486): what EG_KEYGEN, EG_ENC and EG_DEC write, where they raise,
and that the plaintext comes back. -/

namespace Sys2Proof.Machine

open Sys2Proof

/-! ### Frames of commands that draw and write several destinations -/

/-- A command that commits a state settles that state (R401). -/
theorem exec_of_commit {i : Instr} {s u : State} (h : commandResult s i = .commit u) :
    exec i s = .next (u.finish false 0x00#8) := by rw [exec_eq, h, State.settle_commit]

/-- What commits within the frame of every command completes without error (R401). -/
theorem Kept.succeeded {s t : State} (h : Kept s t) : Succeeded s (t.finish false 0x00#8) :=
  ⟨by rw [State.finish_status, h.status, Status.complete], rfl⟩

namespace OnlyRegisters

variable {rs : List Reg} {js : List Pair} {s t : State}

theorem of_noted (h : Noted s t) : OnlyRegisters rs js s t := by
  refine ⟨fun r _ => by rw [h.x], fun j _ => ?_, fun a => by rw [h.dmem], h.descriptors, h.cfg, h.cmd, h.ie, h.osel,
    h.readData, h.agenda⟩
  rw [State.isIdentity, h.tag, State.isIdentity]

theorem setReg (h : OnlyRegisters rs js s t) {r : Reg} (hr : r ∈ rs) (v : Nat) :
    OnlyRegisters rs js s (t.setReg r v) := by
  obtain ⟨hregs, hrest⟩ := h
  refine ⟨fun q hq => ?_, hrest⟩
  rw [State.setReg_getElem_of_ne t v (ne_of_mem_of_not_mem hr hq).symm]
  exact hregs q hq

theorem writePoint (h : OnlyRegisters rs js s t) {j : Pair} (hx : pairX j ∈ rs) (hy : pairY j ∈ rs) (hj : j ∈ js)
    (p : Point) : OnlyRegisters rs js s (t.writePoint j p) := by
  obtain ⟨hregs, htags, hrest⟩ := h
  refine ⟨fun q hq => ?_, fun i hi => ?_, ?_⟩
  · rw [State.writePoint_getElem_of_ne t j p (ne_of_mem_of_not_mem hx hq).symm (ne_of_mem_of_not_mem hy hq).symm]
    exact hregs q hq
  · rw [State.isIdentity_writePoint, if_neg (ne_of_mem_of_not_mem hj hi).symm]
    exact htags i hi
  · simpa [ControlKept] using hrest

theorem finish (h : OnlyRegisters rs js s t) (failed : Bool) (code : BitVec 8) :
    OnlyRegisters rs js s (t.finish failed code) := h

end OnlyRegisters

/-- A command that raises after reading sources and making draws completes with that code and with nothing written, the
draws consumed and the record kept (R600). -/
theorem exec_of_raise_noted {i : Instr} {s u : State} {e : ErrCode} (h : commandResult s i = .raise e u)
    (hu : Noted s u) : ∃ t, exec i s = .next t ∧ FailedWith e.code s t ∧ NothingWritten s t ∧ t.rng = u.rng ∧
      t.unwrittenRead = u.unwrittenRead := by
  refine ⟨u.finish true e.code, by rw [exec_eq, h, State.settle_raise], ⟨?_, rfl⟩,
    (OnlyRegisters.of_noted hu).finish _ _, rfl, rfl⟩
  rw [State.finish_status, hu.status, Status.complete]

/-- A command that raises has not completed without error (R401). -/
theorem not_succeeded_of_raise {i : Instr} {s t u : State} {e : ErrCode} (h : commandResult s i = .raise e u)
    (hexec : exec i s = .next t) : ¬ Succeeded s t := by
  rintro ⟨-, hcode⟩
  rw [exec_eq, h, State.settle_raise] at hexec
  cases hexec
  exact e.code_ne_zero hcode

/-! ### A register beside a pair -/

/-- A register that passes the overlap check of R602 is neither register of the pair. -/
theorem ne_pair_of_not_inPairOf {r q : Reg} (heven : Reg.isEven q = true) (h : Reg.inPairOf r q = false) :
    r ≠ pairX (pairOf q) ∧ r ≠ pairY (pairOf q) := by
  have hy := pairY_pairOf heven
  simp only [Reg.inPairOf, Bool.or_eq_false_iff, beq_eq_false_iff_ne] at h
  obtain ⟨hne, hne'⟩ := h
  rw [pairX_pairOf heven]
  exact ⟨Fin.val_ne_iff.1 hne, Fin.val_ne_iff.1 (hy ▸ hne')⟩

theorem State.reg_writePoint_of_ne (s : State) {j : Pair} {r : Reg} (p : Point) (hx : r ≠ pairX j) (hy : r ≠ pairY j) :
    (s.writePoint j p).reg r = s.reg r := by
  rw [State.reg, State.writePoint_getElem_of_ne s j p hx hy, State.reg]

theorem State.written_writePoint_of_ne (s : State) {j : Pair} {r : Reg} (p : Point) (hx : r ≠ pairX j)
    (hy : r ≠ pairY j) : (s.writePoint j p).written r = s.written r := by
  rw [State.written, State.writePoint_getElem_of_ne s j p hx hy, State.written]

theorem State.readPoint_setReg_of_ne (s : State) {j : Pair} {r : Reg} (v : Nat) (hx : r ≠ pairX j) (hy : r ≠ pairY j) :
    (s.setReg r v).readPoint j = s.readPoint j := by
  simp only [State.readPoint, State.reg_setReg, if_neg hx.symm, if_neg hy.symm]
  rfl

theorem PairWritten.setReg {s : State} {j : Pair} (h : PairWritten j s) (r : Reg) (v : Nat) :
    PairWritten j (s.setReg r v) := by
  obtain ⟨hx, hy⟩ := h
  exact ⟨by rw [State.written_setReg, hx, Bool.or_true], by rw [State.written_setReg, hy, Bool.or_true]⟩

/-- The state shows a point in a pair and a value in a register, each of them written (R100, R103). -/
structure ShowsBoth (j : Pair) (p : Point) (r : Reg) (v : Nat) (s : State) : Prop where
  point : s.readPoint j = p
  pairWritten : PairWritten j s
  reg : s.reg r = v
  written : s.written r = true

section
variable (s : State) {j : Pair} {r : Reg} (p : Point) (v : Nat) (hx : r ≠ pairX j) (hy : r ≠ pairY j)
include hx hy

/-- A point written after a register beside its pair leaves the register as it is. -/
theorem State.setReg_writePoint_showsBoth : ShowsBoth j p r v ((s.setReg r v).writePoint j p) where
  point := State.readPoint_writePoint _ j p
  pairWritten := State.written_writePoint _ j p
  reg := by rw [State.reg_writePoint_of_ne _ p hx hy, State.reg_setReg_self]
  written := by rw [State.written_writePoint_of_ne _ p hx hy, State.written_setReg_self]

/-- A register written after a pair beside it leaves the point as it is. -/
theorem State.writePoint_setReg_showsBoth : ShowsBoth j p r v ((s.writePoint j p).setReg r v) where
  point := by rw [State.readPoint_setReg_of_ne _ v hx hy, State.readPoint_writePoint]
  pairWritten := PairWritten.setReg (State.written_writePoint s j p) r v
  reg := State.reg_setReg_self _ r v
  written := State.written_setReg_self _ r v

end

/-! ### Scalars and multiples of the base point -/

/-- The draw of EG_KEYGEN and EG_ENC, a scalar in [1, n − 1] (R481, R483). -/
abbrev State.scalarDraw (s : State) : Nat × RandomSource := s.rng.drawRange 1 (s.cfg.curve.n - 1)

/-- A drawn scalar is in its range and is a legal scalar (R9, R13). -/
theorem scalarDraw_mem {s : State} (hc : curveOk s.cfg.curve) :
    1 ≤ s.scalarDraw.1 ∧ s.scalarDraw.1 ≤ s.cfg.curve.n - 1 ∧ s.scalarDraw.1 < 2 ^ 256 := by
  obtain ⟨-, -, -, -, -, -, -, -, -, -, hn, hbits, -⟩ := hc
  obtain ⟨hlo, hhi⟩ := RandomSource.drawRange_mem (lo := 1) (hi := s.cfg.curve.n - 1) (by omega) s.rng
  exact ⟨hlo, hhi, hhi.trans_lt hbits⟩

/-- R455, R481: no addition of the base point's scan raises, since G has odd order, and k·G lies on the curve. -/
theorem scalarMult_basePoint {c : Curve} (hc : curveOk c) {k : Nat} (hk : k < 2 ^ 256) :
    ∃ q, scalarMult c k (basePoint c) = some q ∧ q.inRange c = true ∧ isOnCurve c q = true := by
  have : Fact c.p.Prime := ⟨hc.1⟩
  obtain ⟨G, hG, hzero, hodd, -⟩ := exists_base hc
  obtain ⟨hshow, hanswers⟩ := scalarMult_shows hc hk hG
  obtain ⟨q, hq⟩ := hanswers c.n hodd hzero
  exact ⟨q, hq, (hshow q hq).inRange_onCurve⟩

/-- R486: d·(k·G) = k·(d·G), both answered, since both are (d·k mod n)·G by R461 (b). -/
theorem scalarMult_basePoint_comm {c : Curve} (hc : curveOk c) {d k : Nat} {q c1 : Point} (hd : d < 2 ^ 256)
    (hk : k < 2 ^ 256) (hq : scalarMult c d (basePoint c) = some q) (hc1 : scalarMult c k (basePoint c) = some c1) :
    ∃ secret, scalarMult c d c1 = some secret ∧ scalarMult c k q = some secret := by
  obtain ⟨r, hr, hrG⟩ := scalarMult_scalarMult_basePoint hc hk hd hc1
  obtain ⟨r', hr', hrG'⟩ := scalarMult_scalarMult_basePoint hc hd hk hq
  rw [mul_comm k d, hrG', Option.some.injEq] at hrG
  exact ⟨r, hr, hrG ▸ hr'⟩

/-! ### EG_KEYGEN -/

/-- EG_KEYGEN past its operand check, where the scan of G answers (R481). -/
theorem cmdEgKeygen_eq_commit {rd rb : Reg} {s : State} {q : Point} (hwf : (Instr.egKeygen rd rb).wellFormed = true)
    (hq : scalarMult s.cfg.curve s.scalarDraw.1 (basePoint s.cfg.curve) = some q) :
    cmdEgKeygen rd rb s =
      .commit (((s.setRng s.scalarDraw.2).setReg rd s.scalarDraw.1).writePoint (pairOf rb) q) := by
  simp only [Instr.wellFormed, Bool.and_eq_true, Bool.not_eq_true'] at hwf
  obtain ⟨heven, hapart⟩ := hwf
  simp only [cmdEgKeygen, heven, hapart, Bool.not_true, Bool.false_eq_true, if_false, State.setRng_cfg, hq]

/-- Settles O39: the drawn scalar is in range, so the scan of G answers (`scalarMult_basePoint`), and both are
written. -/
theorem egKeygenWritesAKeyPair : Obligations.EgKeygenWritesAKeyPair := by
  intro rd rb s hc hwf
  obtain ⟨hlo, hhi, hlt⟩ := scalarDraw_mem hc
  obtain ⟨q, hq, -, hcurve⟩ := scalarMult_basePoint hc hlt
  have hresult : commandResult s (.egKeygen rd rb) = _ := cmdEgKeygen_eq_commit hwf hq
  simp only [Instr.wellFormed, Bool.and_eq_true, Bool.not_eq_true'] at hwf
  obtain ⟨heven, hapart⟩ := hwf
  obtain ⟨hx, hy⟩ := ne_pair_of_not_inPairOf heven hapart
  have hnoted : Noted s (s.setRng s.scalarDraw.2) := State.setRng_noted _ _
  have hkept := hnoted.toKept.trans
    ((State.setReg_kept _ rd s.scalarDraw.1).trans (State.writePoint_kept _ (pairOf rb) q))
  have hshows := (s.setRng s.scalarDraw.2).setReg_writePoint_showsBoth q s.scalarDraw.1 hx hy
  refine ⟨_, exec_of_commit hresult, hshows.reg, hshows.reg.symm ▸ hlo, hshows.reg.symm ▸ hhi,
    hshows.written, ?_, ?_, hshows.pairWritten, ?_, ?_, ?_, hkept.succeeded, ?_⟩
  · exact hshows.reg.symm ▸ hshows.point.symm ▸ hq
  · exact hshows.point.symm ▸ hcurve
  · simp
  · simp
  · simp
  · exact (((OnlyRegisters.of_noted hnoted).setReg (by simp) _).writePoint (by simp) (by simp) (by simp) q).finish _ _

/-! ### EG_ENC -/

/-- The premises under which EG_ENC makes its draw: legal fields, written sources, Q in range and m below p (R483). -/
structure EgEncReady (rd ra rb rc : Reg) (s : State) : Prop where
  wellFormed : (Instr.egEnc rd ra rb rc).wellFormed = true
  point : PointReady (pairOf ra) s
  written : Written [rb] s
  inRange : (s.readPoint (pairOf ra)).inRange s.cfg.curve = true
  plaintext : s.reg rb < s.cfg.curve.p

section
variable {rd ra rb rc : Reg} {s : State}

/-- The check of R602: the register of C2 lies beside the pair of C1. -/
theorem egEnc_apart (hwf : (Instr.egEnc rd ra rb rc).wellFormed = true) :
    rc ≠ pairX (pairOf rd) ∧ rc ≠ pairY (pairOf rd) := by
  simp only [Instr.wellFormed, Bool.and_eq_true, Bool.not_eq_true'] at hwf
  obtain ⟨⟨heven, -⟩, hapart⟩ := hwf
  exact ne_pair_of_not_inPairOf heven hapart

/-- R483: EG_ENC raises OPERAND_RANGE, before its draw, for a plaintext that is not below p. -/
theorem cmdEgEnc_eq_raise_range (hwf : (Instr.egEnc rd ra rb rc).wellFormed = true) (hQ : PointReady (pairOf ra) s)
    (hm : Written [rb] s) (hrange : (s.readPoint (pairOf ra)).inRange s.cfg.curve = true)
    (hbig : s.cfg.curve.p ≤ s.reg rb) : cmdEgEnc rd ra rb rc s = .raise .operandRange s := by
  simp only [Instr.wellFormed, Bool.and_eq_true, Bool.not_eq_true'] at hwf
  obtain ⟨⟨hd, ha⟩, hapart⟩ := hwf
  simp only [cmdEgEnc, hd, ha, hapart, State.notePoint_of_written s hQ, State.noteRegs_of_written s hm, hrange,
    ge_iff_le, hbig, Bool.and_self, Bool.not_true, Bool.false_eq_true, if_false, if_true]

/-- EG_ENC past its checks: one draw, NO_INVERSE where a scan raises, else the secret decides (R483, R606). -/
theorem cmdEgEnc_eq (h : EgEncReady rd ra rb rc s) :
    cmdEgEnc rd ra rb rc s =
      (scalarMult s.cfg.curve s.scalarDraw.1 (basePoint s.cfg.curve)).elim (.raise .noInverse (s.setRng s.scalarDraw.2))
        fun c1 => (scalarMult s.cfg.curve s.scalarDraw.1 (s.readPoint (pairOf ra))).elim
          (.raise .noInverse (s.setRng s.scalarDraw.2))
          (egEncResult rd rc (s.reg rb) c1 (s.setRng s.scalarDraw.2)) := by
  obtain ⟨hwf, hQ, hm, hrange, hlt⟩ := h
  simp only [Instr.wellFormed, Bool.and_eq_true, Bool.not_eq_true'] at hwf
  obtain ⟨⟨hd, ha⟩, hapart⟩ := hwf
  simp only [cmdEgEnc, hd, ha, hapart, State.notePoint_of_written s hQ, State.noteRegs_of_written s hm, hrange,
    ge_iff_le, hlt.not_ge, Bool.and_self, Bool.not_true, Bool.false_eq_true, if_false, State.setRng_cfg]
  cases scalarMult s.cfg.curve s.scalarDraw.1 (basePoint s.cfg.curve) with
  | none => rfl
  | some c1 => cases scalarMult s.cfg.curve s.scalarDraw.1 (s.readPoint (pairOf ra)) <;> rfl

theorem cmdEgEnc_eq_egEncResult (h : EgEncReady rd ra rb rc s) {c1 secret : Point}
    (hc1 : scalarMult s.cfg.curve s.scalarDraw.1 (basePoint s.cfg.curve) = some c1)
    (hsecret : scalarMult s.cfg.curve s.scalarDraw.1 (s.readPoint (pairOf ra)) = some secret) :
    cmdEgEnc rd ra rb rc s = egEncResult rd rc (s.reg rb) c1 (s.setRng s.scalarDraw.2) secret := by
  rw [cmdEgEnc_eq h, hc1, hsecret, Option.elim_some, Option.elim_some]

theorem cmdEgEnc_eq_raise_noInverse (h : EgEncReady rd ra rb rc s)
    (hnone : scalarMult s.cfg.curve s.scalarDraw.1 (basePoint s.cfg.curve) = none ∨
      scalarMult s.cfg.curve s.scalarDraw.1 (s.readPoint (pairOf ra)) = none) :
    cmdEgEnc rd ra rb rc s = .raise .noInverse (s.setRng s.scalarDraw.2) := by
  rw [cmdEgEnc_eq h]
  obtain hG | hQ := hnone
  · rw [hG, Option.elim_none]
  · cases scalarMult s.cfg.curve s.scalarDraw.1 (basePoint s.cfg.curve) with
    | none => rfl
    | some c1 => rw [hQ, Option.elim_some, Option.elim_none]

/-- R484: the identity, and a finite secret with x = 0, are degenerate secrets of EG_ENC. -/
theorem egEncResult_degenerate {m : Nat} {c1 secret : Point} (h : secret = .identity ∨ ∃ sy, secret = .affine 0 sy) :
    egEncResult rd rc m c1 s secret = .raise .degenerate s := by
  obtain rfl | ⟨sy, rfl⟩ := h
  · rfl
  · rw [egEncResult, if_pos rfl]

/-- R483: a finite secret with x ≠ 0 masks the plaintext. -/
theorem egEncResult_affine {m sx sy : Nat} {c1 : Point} (hsx : sx ≠ 0) :
    egEncResult rd rc m c1 s (.affine sx sy) =
      .commit ((s.writePoint (pairOf rd) c1).setReg rc (m * sx % s.cfg.curve.p)) := if_neg hsx

end

/-- Settles O40: both scans answer, the secret is not degenerate, and C1 and C2 are written beside each other. -/
theorem egEncWritesTheCiphertext : Obligations.EgEncWritesTheCiphertext := by
  rintro rd ra rb rc s _ sx sy c1 hwf hQ hm hrange hlt rfl hc1 hsecret hsx
  have hresult : commandResult s (.egEnc rd ra rb rc) = _ :=
    (cmdEgEnc_eq_egEncResult ⟨hwf, hQ, hm, hrange, hlt⟩ hc1 hsecret).trans (egEncResult_affine hsx)
  obtain ⟨hx, hy⟩ := egEnc_apart hwf
  have hnoted : Noted s (s.setRng s.scalarDraw.2) := State.setRng_noted _ _
  have hkept := hnoted.toKept.trans ((State.writePoint_kept _ (pairOf rd) c1).trans
    (State.setReg_kept _ rc (s.reg rb * sx % s.cfg.curve.p)))
  have hshows := (s.setRng s.scalarDraw.2).writePoint_setReg_showsBoth c1 (s.reg rb * sx % s.cfg.curve.p) hx hy
  refine ⟨_, exec_of_commit hresult, hshows.point, hshows.reg, hshows.pairWritten, hshows.written, ?_, ?_, ?_,
    hkept.succeeded, ?_⟩
  · simp
  · simp
  · simp
  · exact (((OnlyRegisters.of_noted hnoted).writePoint (by simp) (by simp) (by simp) c1).setReg (by simp) _).finish _ _

/-- R483, R484: an EG_ENC that completed without error had a plaintext below p and a finite secret with x ≠ 0. -/
theorem egEnc_inv_of_succeeded {rd ra rb rc : Reg} {s t : State} (hwf : (Instr.egEnc rd ra rb rc).wellFormed = true)
    (hQ : PointReady (pairOf ra) s) (hm : Written [rb] s)
    (hrange : (s.readPoint (pairOf ra)).inRange s.cfg.curve = true) (hexec : exec (.egEnc rd ra rb rc) s = .next t)
    (hok : Succeeded s t) :
    s.reg rb < s.cfg.curve.p ∧ ∃ c1 sx sy,
      scalarMult s.cfg.curve s.scalarDraw.1 (basePoint s.cfg.curve) = some c1 ∧
      scalarMult s.cfg.curve s.scalarDraw.1 (s.readPoint (pairOf ra)) = some (.affine sx sy) ∧ sx ≠ 0 := by
  have hraise {e : ErrCode} {u : State} : cmdEgEnc rd ra rb rc s ≠ .raise e u :=
    fun h => not_succeeded_of_raise (i := .egEnc rd ra rb rc) h hexec hok
  have hlt : s.reg rb < s.cfg.curve.p :=
    Nat.lt_of_not_le fun hbig => hraise (cmdEgEnc_eq_raise_range hwf hQ hm hrange hbig)
  have hready : EgEncReady rd ra rb rc s := ⟨hwf, hQ, hm, hrange, hlt⟩
  obtain ⟨c1, hc1⟩ := Option.ne_none_iff_exists'.1 fun h => hraise (cmdEgEnc_eq_raise_noInverse hready (.inl h))
  obtain ⟨secret, hsecret⟩ := Option.ne_none_iff_exists'.1 fun h => hraise (cmdEgEnc_eq_raise_noInverse hready (.inr h))
  have hfine : ¬ (secret = .identity ∨ ∃ sy, secret = .affine 0 sy) := fun h =>
    hraise ((cmdEgEnc_eq_egEncResult hready hc1 hsecret).trans (egEncResult_degenerate h))
  cases secret with
  | identity => exact absurd (.inl rfl) hfine
  | affine sx sy => exact ⟨hlt, c1, sx, sy, hc1, hsecret, fun h => hfine (.inr ⟨sy, h ▸ rfl⟩)⟩

/-! ### EG_DEC -/

/-- The premises under which EG_DEC computes the secret: legal fields, written sources, C1 in range, a legal scalar and
C2 below p (R485). -/
structure EgDecReady (rd ra rb rc : Reg) (s : State) : Prop where
  wellFormed : (Instr.egDec rd ra rb rc).wellFormed = true
  written : Written [ra, rc] s
  point : PointReady (pairOf rb) s
  inRange : (s.readPoint (pairOf rb)).inRange s.cfg.curve = true
  scalar : s.reg ra < 2 ^ 256
  ciphertext : s.reg rc < s.cfg.curve.p

section
variable {rd ra rb rc : Reg} {s : State}

/-- EG_DEC past its checks: NO_INVERSE where the scan raises, else the secret decides (R485). -/
theorem cmdEgDec_eq (h : EgDecReady rd ra rb rc s) :
    cmdEgDec rd ra rb rc s = (scalarMult s.cfg.curve (s.reg ra) (s.readPoint (pairOf rb))).elim (.raise .noInverse s)
      (egDecResult rd (s.reg rc) s) := by
  obtain ⟨hwf, hw, hC, hrange, hd, hlt⟩ := h
  have hnote : ((s.noteRegs [ra]).notePoint (pairOf rb)).noteRegs [rc] = s := by
    rw [State.noteRegs_of_written s (rs := [ra]) (by simp [hw ra]), State.notePoint_of_written s hC,
      State.noteRegs_of_written s (rs := [rc]) (by simp [hw rc])]
  have hchecks : ¬ (s.reg ra ≥ 2 ^ Config.scalarBits ∨ s.reg rc ≥ s.cfg.curve.p) := by
    rintro (hbig | hbig)
    · exact hbig.not_gt hd
    · exact hbig.not_gt hlt
  have heven : Reg.isEven rb = true := hwf
  simp only [cmdEgDec, heven, hnote, hrange, if_neg hchecks, Bool.not_true, Bool.false_eq_true, if_false]
  cases scalarMult s.cfg.curve (s.reg ra) (s.readPoint (pairOf rb)) <;> rfl

/-- R485, R606: a finite secret with x ≡ 0 (mod p) has no inverse. -/
theorem egDecResult_eq_raise_noInverse {c2 sx sy : Nat} (hp : s.cfg.curve.p.Prime) (hsx : sx % s.cfg.curve.p = 0) :
    egDecResult rd c2 s (.affine sx sy) = .raise .noInverse s := by
  have hgcd : Nat.gcd sx s.cfg.curve.p ≠ 1 := fun h =>
    (hp.coprime_iff_not_dvd.1 (Nat.coprime_comm.1 h)) (Nat.dvd_of_mod_eq_zero hsx)
  simp only [egDecResult, (modInv_nat sx s.cfg.curve.p hp.ne_zero).2 hgcd]

/-- R485: any other finite secret has an inverse, with which C2 is unmasked. -/
theorem egDecResult_eq_commit {c2 sx sy : Nat} (hp : s.cfg.curve.p.Prime) (hsx : sx % s.cfg.curve.p ≠ 0) :
    ∃ i, sx * i ≡ 1 [MOD s.cfg.curve.p] ∧
      egDecResult rd c2 s (.affine sx sy) = .commit (s.setReg rd (c2 * i % s.cfg.curve.p)) := by
  have hgcd : Nat.gcd sx s.cfg.curve.p = 1 := Nat.coprime_comm.1
    (hp.coprime_iff_not_dvd.2 fun h => hsx (Nat.mod_eq_zero_of_dvd h))
  obtain ⟨i, hi, -, hinv⟩ := (modInv_nat sx s.cfg.curve.p hp.ne_zero).1 hgcd
  exact ⟨i, hinv, by simp only [egDecResult, hi]⟩

end

/-- Masking undoes unmasking: where i inverts x, (c·i mod p)·x is c again. -/
theorem mask_unmask {p x i c : Nat} (hi : x * i ≡ 1 [MOD p]) (hc : c < p) : c * i % p * x % p = c := by
  have hcong : c * i % p * x ≡ c [MOD p] := calc
    c * i % p * x ≡ c * i * x [MOD p] := (Nat.mod_modEq _ p).mul_right x
    _ = c * (x * i) := by ring
    _ ≡ c * 1 [MOD p] := hi.mul_left c
    _ = c := mul_one c
  exact Nat.mod_eq_of_modEq hcong hc

/-- Unmasking undoes masking: where i inverts x, (m·x mod p)·i mod p is m again. -/
theorem unmask_mask {p x i m : Nat} (hi : x * i ≡ 1 [MOD p]) (hm : m < p) : m * x % p * i % p = m :=
  mask_unmask (by rwa [mul_comm]) hm

/-- R485: with a finite secret with x ≢ 0 (mod p), EG_DEC completes with the one m below p with m·S.x ≡ C2 (mod p). -/
theorem exec_egDec_of_secret {rd ra rb rc : Reg} {s : State} (hp : s.cfg.curve.p.Prime) (h : EgDecReady rd ra rb rc s)
    {sx sy : Nat} (hsecret : scalarMult s.cfg.curve (s.reg ra) (s.readPoint (pairOf rb)) = some (.affine sx sy))
    (hsx : sx % s.cfg.curve.p ≠ 0) :
    ∃ t, exec (.egDec rd ra rb rc) s = .next t ∧ t.reg rd < s.cfg.curve.p ∧
      t.reg rd * sx % s.cfg.curve.p = s.reg rc ∧
      (∀ m, m < s.cfg.curve.p → s.reg rc = m * sx % s.cfg.curve.p → t.reg rd = m) ∧
      t.written rd = true ∧ Succeeded s t ∧ OnlyRegisters [rd] [] s t ∧ Quiet s t := by
  obtain ⟨i, hi, hcommit⟩ := egDecResult_eq_commit (rd := rd) (c2 := s.reg rc) (sy := sy) hp hsx
  obtain ⟨t, hexec, hreg, hrest⟩ := exec_of_commit_setReg (i := .egDec rd ra rb rc)
    ((cmdEgDec_eq h).trans (by rw [hsecret, Option.elim_some, hcommit]))
  refine ⟨t, hexec, hreg ▸ Nat.mod_lt _ hp.pos, hreg ▸ mask_unmask hi h.ciphertext, fun m hm hmask => ?_, hrest⟩
  rw [hreg, hmask, unmask_mask hi hm]

/-- Settles O41: a degenerate secret and a scan that raises end both commands with nothing written, EG_ENC after its
draw. -/
theorem degenerateSecretIsRefused : Obligations.DegenerateSecretIsRefused := by
  intro rd ra rb rc s
  refine ⟨?_, fun hwf hw hC hrange hd hlt hsecret => ?_⟩
  · rintro _ hwf hQ hm hrange hlt rfl
    have hready : EgEncReady rd ra rb rc s := ⟨hwf, hQ, hm, hrange, hlt⟩
    have hnoted : Noted s (s.setRng s.scalarDraw.2) := State.setRng_noted _ _
    refine ⟨fun c1 secret hc1 hsecret hdegenerate => ?_, fun hnone => ?_⟩
    · exact exec_of_raise_noted (i := .egEnc rd ra rb rc) (e := .degenerate)
        ((cmdEgEnc_eq_egEncResult hready hc1 hsecret).trans (egEncResult_degenerate hdegenerate)) hnoted
    · exact exec_of_raise_noted (i := .egEnc rd ra rb rc) (e := .noInverse)
        (cmdEgEnc_eq_raise_noInverse hready hnone) hnoted
  · exact exec_of_raise (i := .egDec rd ra rb rc) (e := .degenerate)
      ((cmdEgDec_eq ⟨hwf, hw, hC, hrange, hd, hlt⟩).trans (by rw [hsecret]; rfl))

/-! ### The round trip -/

/-- d and q are a secret key, a legal scalar, and its public key d·G (R480, R481). -/
def KeyPair (c : Curve) (d : Nat) (q : Point) : Prop := d < 2 ^ 256 ∧ scalarMult c d (basePoint c) = some q

/-- (c1, c2) is a ciphertext of m under the public key q (R483): for some scalar k, c1 = k·G, and c2 is m masked with
the x-coordinate of the secret k·q, which is not degenerate. -/
def Encrypts (c : Curve) (q : Point) (m : Nat) (c1 : Point) (c2 : Nat) : Prop :=
  m < c.p ∧ ∃ k sx sy, k < 2 ^ 256 ∧ scalarMult c k (basePoint c) = some c1 ∧
    scalarMult c k q = some (.affine sx sy) ∧ sx ≠ 0 ∧ c2 = m * sx % c.p

/-- EG_KEYGEN leaves a key pair (R481, R482). -/
theorem keyPair_of_exec_egKeygen {rd rb : Reg} {s t : State} (hc : curveOk s.cfg.curve)
    (hwf : (Instr.egKeygen rd rb).wellFormed = true) (hexec : exec (.egKeygen rd rb) s = .next t) :
    KeyPair s.cfg.curve (t.reg rd) (t.readPoint (pairOf rb)) := by
  obtain ⟨t', hexec', hreg, -, -, -, hpoint, -⟩ := egKeygenWritesAKeyPair rd rb s hc hwf
  obtain rfl := Host.Outcome.next.inj (hexec.symm.trans hexec')
  obtain ⟨-, -, hlt⟩ := scalarDraw_mem hc
  exact ⟨hreg ▸ hlt, hpoint⟩

/-- A public key is a legal point operand (R452, R482). -/
theorem KeyPair.inRange {c : Curve} {d : Nat} {q : Point} (hc : curveOk c) (h : KeyPair c d q) :
    q.inRange c = true := by
  obtain ⟨hd, hq⟩ := h
  obtain ⟨q', hq', hrange, -⟩ := scalarMult_basePoint hc hd
  rw [hq, Option.some.injEq] at hq'
  exact hq' ▸ hrange

/-- An EG_ENC that completed without error leaves a ciphertext of its plaintext (R483, R484). -/
theorem encrypts_of_exec_egEnc {rd ra rb rc : Reg} {s t : State} (hc : curveOk s.cfg.curve)
    (hwf : (Instr.egEnc rd ra rb rc).wellFormed = true) (hQ : PointReady (pairOf ra) s) (hm : Written [rb] s)
    (hrange : (s.readPoint (pairOf ra)).inRange s.cfg.curve = true) (hexec : exec (.egEnc rd ra rb rc) s = .next t)
    (hok : Succeeded s t) :
    Encrypts s.cfg.curve (s.readPoint (pairOf ra)) (s.reg rb) (t.readPoint (pairOf rd)) (t.reg rc) := by
  obtain ⟨hlt, c1, sx, sy, hc1, hsecret, hsx⟩ := egEnc_inv_of_succeeded hwf hQ hm hrange hexec hok
  obtain ⟨t', hexec', hpoint, hreg, -⟩ :=
    egEncWritesTheCiphertext rd ra rb rc s _ sx sy c1 hwf hQ hm hrange hlt rfl hc1 hsecret hsx
  obtain rfl := Host.Outcome.next.inj (hexec.symm.trans hexec')
  obtain ⟨-, -, hk⟩ := scalarDraw_mem hc
  exact ⟨hlt, s.scalarDraw.1, sx, sy, hk, hpoint ▸ hc1, hsecret, hsx, hreg⟩

/-- The holder of the secret key computes the secret that masks the plaintext, from legal operands (R485, R486). -/
theorem Encrypts.secret {c : Curve} {d m c2 : Nat} {q c1 : Point} (hc : curveOk c) (hkey : KeyPair c d q)
    (h : Encrypts c q m c1 c2) :
    c1.inRange c = true ∧ c2 < c.p ∧
      ∃ sx sy, scalarMult c d c1 = some (.affine sx sy) ∧ sx % c.p ≠ 0 ∧ c2 = m * sx % c.p := by
  have hrange := hkey.inRange hc
  obtain ⟨hd, hq⟩ := hkey
  obtain ⟨-, k, sx, sy, hk, hc1, hsecret, hsx, hc2⟩ := h
  obtain ⟨secret, hsecret', hsame⟩ := scalarMult_basePoint_comm hc hd hk hq hc1
  rw [hsecret, Option.some.injEq] at hsame
  have hsecretRange := scalarMult_inRange hc.1.ne_zero hrange hsecret
  simp only [Point.inRange, Bool.and_eq_true, decide_eq_true_eq] at hsecretRange
  obtain ⟨hsxlt, -⟩ := hsecretRange
  refine ⟨KeyPair.inRange hc ⟨hk, hc1⟩, hc2 ▸ Nat.mod_lt _ hc.1.pos, sx, sy, hsame ▸ hsecret', ?_, hc2⟩
  rwa [Nat.mod_eq_of_lt hsxlt]

/-- Settles O42: EG_DEC unmasks with the inverse of S.x (`exec_egDec_of_secret`) or raises; and EG_DEC's secret d·(k·G)
is EG_ENC's secret k·(d·G) (`scalarMult_basePoint_comm`), so what EG_ENC masked comes back. -/
theorem egDecRecoversThePlaintext : Obligations.EgDecRecoversThePlaintext := by
  refine ⟨fun rd ra rb rc s hc hwf hw hC hrange hd hlt => ?_,
    fun c d k q c1 hc hd hk hq hc1 => scalarMult_basePoint_comm hc hd hk hq hc1, ?_⟩
  · have hready : EgDecReady rd ra rb rc s := ⟨hwf, hw, hC, hrange, hd, hlt⟩
    refine ⟨fun sx sy hsecret hsx => exec_egDec_of_secret hc.1 hready hsecret hsx, fun hno => ?_⟩
    refine exec_of_raise (i := .egDec rd ra rb rc) (e := .noInverse) ((cmdEgDec_eq hready).trans ?_)
    obtain hnone | ⟨sx, sy, hsecret, hsx⟩ := hno
    · rw [hnone, Option.elim_none]
    · rw [hsecret, Option.elim_some, egDecResult_eq_raise_noInverse hc.1 hsx]
  · intro s0 t0 s1 t1 s2 rd0 rb0 rd1 ra1 rb1 rc1 rd2 ra2 rb2 rc2 hc hcurve1 hcurve2 hwf0 hexec0 hwf1 hQ1 hm1 hQeq
      hexec1 hok1 hwf2 hw2 hC2 hdeq hC1eq hC2eq
    have hkey : KeyPair s2.cfg.curve (s2.reg ra2) (s1.readPoint (pairOf ra1)) := by
      rw [hcurve2, hdeq, hQeq]
      exact keyPair_of_exec_egKeygen hc hwf0 hexec0
    rw [← hcurve2] at hc hcurve1
    have hcipher : Encrypts s2.cfg.curve (s1.readPoint (pairOf ra1)) (s1.reg rb1) (s2.readPoint (pairOf rb2))
        (s2.reg rc2) := by
      rw [hC1eq, hC2eq, ← hcurve1]
      exact encrypts_of_exec_egEnc (hcurve1 ▸ hc) hwf1 hQ1 hm1 (hcurve1 ▸ hkey.inRange hc) hexec1 hok1
    obtain ⟨hrange, hlt, sx, sy, hsecret, hsx, hmask⟩ := hcipher.secret hc hkey
    obtain ⟨t2, hexec2, -, -, hunmask, hrest⟩ :=
      exec_egDec_of_secret hc.1 ⟨hwf2, hw2, hC2, hrange, hkey.1, hlt⟩ hsecret hsx
    exact ⟨t2, hexec2, hunmask _ hcipher.1 hmask, hrest⟩

end Sys2Proof.Machine
end

section
/-! Primality testing (45_rsa.md R510 to R512): when a round passes, that no base is a witness of a prime, which draws
IsPrime makes, and what RSA_PRIME_TEST writes. -/

namespace Sys2Proof.Machine

open Sys2Proof

/-! ### The decomposition of c − 1 -/

/-- R510: the halvings find the exponent of 2, whatever fuel suffices. -/
theorem twos_two_pow_mul {t : Nat} (ht : t % 2 = 1) :
    ∀ (fuel k : Nat), 2 ^ k * t < 2 ^ fuel → twos fuel (2 ^ k * t) = k := by
  intro fuel
  induction fuel with
  | zero =>
    intro k hlt
    have hpos : 0 < 2 ^ k * t := Nat.mul_pos (Nat.two_pow_pos k) (by omega)
    omega
  | succ fuel ih =>
    intro k hlt
    cases k with
    | zero => simp [twos, ht]
    | succ k =>
      have hdouble : 2 ^ (k + 1) * t = 2 * (2 ^ k * t) := by ring
      rw [hdouble] at hlt ⊢
      have heven : 2 * (2 ^ k * t) % 2 = 0 := by omega
      have hhalf : 2 * (2 ^ k * t) / 2 = 2 ^ k * t := by omega
      rw [twos, if_pos heven, hhalf, ih k (by rw [pow_succ] at hlt; omega)]

/-- The machine's decomposition of c − 1 is any decomposition of R510, so that there is one only. -/
theorem twos_bitlen_eq {c k t : Nat} (hc : c - 1 = 2 ^ k * t) (ht : t % 2 = 1) :
    twos (bitlen (c - 1)) (c - 1) = k ∧ (c - 1) / 2 ^ k = t := by
  have hlt := lt_two_pow_bitlen (c - 1)
  constructor
  · rw [hc] at hlt ⊢
    exact twos_two_pow_mul ht _ k hlt
  · rw [hc, Nat.mul_div_cancel_left _ (Nat.two_pow_pos k)]

/-- Every c − 1 > 0 has the decomposition of R510. -/
theorem exists_two_pow_mul_odd {v : Nat} (hv : v ≠ 0) : ∃ k t, v = 2 ^ k * t ∧ t % 2 = 1 := by
  obtain ⟨k, t, hodd, hvt⟩ := Nat.exists_eq_two_pow_mul_odd hv
  exact ⟨k, t, hvt, Nat.odd_iff.1 hodd⟩

/-! ### One round -/

/-- The squarings of a round meet c − 1 exactly where one of the powers y^(2^j) does (R510). -/
theorem squaresToMinusOne_iff (c : Nat) :
    ∀ left y : Nat, squaresToMinusOne c left (y % c) = true ↔ ∃ j, j < left + 1 ∧ y ^ 2 ^ j % c = c - 1 := by
  intro left
  induction left with
  | zero => simp [squaresToMinusOne]
  | succ left ih =>
    intro y
    have hsquare (j : Nat) : (y * y) ^ 2 ^ j = y ^ 2 ^ (j + 1) := by rw [← sq, ← pow_mul, pow_succ' 2 j]
    rw [squaresToMinusOne, ← Nat.mul_mod, Nat.exists_lt_succ_left, pow_zero, pow_one]
    split
    · next hhit => exact ⟨fun _ => .inl hhit, fun _ => rfl⟩
    · next hmiss => simp only [ih (y * y), hsquare, or_iff_right hmiss]

/-- PassesRound says the same of every decomposition of c − 1, there being one only. -/
theorem passesRound_iff {c k t : Nat} (hc : c - 1 = 2 ^ k * t) (ht : t % 2 = 1) (a : Nat) :
    PassesRound c a ↔ a ^ t % c = 1 ∨ ∃ j, j < k ∧ a ^ (2 ^ j * t) % c = c - 1 := by
  constructor
  · rintro ⟨k', t', hc', ht', hpass⟩
    obtain ⟨hk, hdiv⟩ := twos_bitlen_eq hc ht
    obtain ⟨hk', hdiv'⟩ := twos_bitlen_eq hc' ht'
    obtain rfl : k = k' := hk.symm.trans hk'
    obtain rfl : t = t' := hdiv.symm.trans hdiv'
    exact hpass
  · exact fun hpass => ⟨k, t, hc, ht, hpass⟩

/-- A round of the machine passes exactly the bases that pass in R510. -/
theorem roundPasses_iff {c k t : Nat} (hc0 : c ≠ 0) (hk : k ≠ 0) (hc : c - 1 = 2 ^ k * t) (ht : t % 2 = 1) (a : Nat) :
    roundPasses c k t a = true ↔ PassesRound c a := by
  have hsquares := squaresToMinusOne_iff c (k - 1) (a ^ t)
  have hpow (j : Nat) : (a ^ t) ^ 2 ^ j = a ^ (2 ^ j * t) := by rw [← pow_mul, mul_comm]
  simp only [Nat.sub_add_cancel (Nat.pos_of_ne_zero hk), hpow] at hsquares
  have hfirst : a ^ t % c = c - 1 → ∃ j, j < k ∧ a ^ (2 ^ j * t) % c = c - 1 :=
    fun h => ⟨0, Nat.pos_of_ne_zero hk, by rwa [pow_zero, one_mul]⟩
  rw [passesRound_iff hc ht, roundPasses, modExp_eq _ _ _ hc0]
  split
  · next hone => exact ⟨fun _ => hone.imp_right hfirst, fun _ => rfl⟩
  · next hnone => rw [hsquares, or_iff_right fun h => hnone (.inl h)]

/-! ### A prime has no witness -/

/-- Where squaring leads to 1, either all is 1 from the start or the last value before it is −1. -/
theorem eq_one_or_pow_eq_neg_one {R : Type} [CommRing R] [NoZeroDivisors R] {x : R} :
    ∀ k : Nat, x ^ 2 ^ k = 1 → x = 1 ∨ ∃ j, j < k ∧ x ^ 2 ^ j = -1 := by
  intro k
  induction k with
  | zero => intro h; exact .inl (by simpa using h)
  | succ k ih =>
    intro h
    rw [pow_succ, pow_mul] at h
    obtain hone | hneg := sq_eq_one_iff.1 h
    · exact (ih hone).imp_right fun ⟨j, hj, hx⟩ => ⟨j, by omega, hx⟩
    · exact .inr ⟨k, by omega, hneg⟩

/-- R511 (b): every base that an odd prime does not divide passes, by Fermat and the two square roots of 1. -/
theorem passesRound_of_prime {c a : Nat} (hc : c.Prime) (h2 : 2 < c) (ha : ¬ c ∣ a) : PassesRound c a := by
  have : Fact c.Prime := ⟨hc⟩
  obtain ⟨k, t, hkt, ht⟩ := exists_two_pow_mul_odd (v := c - 1) (by omega)
  have hne : (a : ZMod c) ≠ 0 := fun h => ha ((ZMod.natCast_eq_zero_iff a c).1 h)
  have hfermat : ((a : ZMod c) ^ t) ^ 2 ^ k = 1 := by
    rw [← pow_mul, mul_comm, ← hkt, ZMod.pow_card_sub_one_eq_one hne]
  have hmod {e r : Nat} (hr : r < c) (h : (a : ZMod c) ^ e = r) : a ^ e % c = r :=
    (Nat.mod_eq_of_lt hr) ▸ (ZMod.natCast_eq_natCast_iff' _ _ c).1 (by rwa [Nat.cast_pow])
  rw [passesRound_iff hkt ht]
  obtain hone | ⟨j, hj, hneg⟩ := eq_one_or_pow_eq_neg_one k hfermat
  · exact .inl (hmod (by omega) (by rw [hone, Nat.cast_one]))
  · refine .inr ⟨j, hj, hmod (by omega) ?_⟩
    rw [mul_comm, pow_mul, hneg, Nat.cast_sub hc.one_le, ZMod.natCast_self, Nat.cast_one, zero_sub]

/-! ### The draws of the rounds -/

theorem drawsOf_mem {lo hi : Nat} (hle : lo ≤ hi) :
    ∀ (n : Nat) (g : RandomSource), ∀ a ∈ (drawsOf lo hi n g).1, lo ≤ a ∧ a ≤ hi := by
  intro n
  induction n with
  | zero => intro g a ha; cases ha
  | succ n ih =>
    intro g a ha
    obtain rfl | hrest := List.mem_cons.1 ha
    · exact RandomSource.drawRange_mem hle g
    · exact ih _ a hrest

theorem drawsOf_drawn (lo hi : Nat) :
    ∀ (n : Nat) (g : RandomSource), (drawsOf lo hi n g).2.drawn = g.drawn + n := by
  intro n
  induction n with
  | zero => intro g; rfl
  | succ n ih =>
    intro g
    rw [drawsOf, ih, RandomSource.drawRange_drawn]
    omega

/-- What at most `n` rounds for candidate `c` answer (R510, R511 (a)): either all are run and every base drawn passes, or
the last base drawn is the first that does not. -/
def RoundsAnswer (c n : Nat) (g : RandomSource) (r : Bool × RandomSource) : Prop :=
  ∃ (k : Nat) (bases : List Nat), k ≤ n ∧ drawsOf 2 (c - 2) k g = (bases, r.2) ∧
    ((k = n ∧ (∀ a ∈ bases, PassesRound c a) ∧ r.1 = true) ∨
      ∃ before witness, bases = before ++ [witness] ∧ (∀ a ∈ before, PassesRound c a) ∧
        ¬ PassesRound c witness ∧ r.1 = false)

/-- One more round before the others, whose base passes. -/
theorem RoundsAnswer.cons {c n : Nat} {g : RandomSource} {r : Bool × RandomSource}
    (hpass : PassesRound c (g.drawRange 2 (c - 2)).1) (h : RoundsAnswer c n (g.drawRange 2 (c - 2)).2 r) :
    RoundsAnswer c (n + 1) g r := by
  obtain ⟨k, bases, hk, hdraws, hcases⟩ := h
  refine ⟨k + 1, (g.drawRange 2 (c - 2)).1 :: bases, by omega, by simp [drawsOf, hdraws], ?_⟩
  obtain ⟨rfl, hall, htrue⟩ | ⟨before, witness, rfl, hbefore, hwitness, hfalse⟩ := hcases
  · exact .inl ⟨rfl, List.forall_mem_cons.2 ⟨hpass, hall⟩, htrue⟩
  · exact .inr ⟨_ :: before, witness, rfl, List.forall_mem_cons.2 ⟨hpass, hbefore⟩, hwitness, hfalse⟩

theorem rounds_answer {c s t : Nat} (hround : ∀ a, roundPasses c s t a = true ↔ PassesRound c a) :
    ∀ (n : Nat) (g : RandomSource), RoundsAnswer c n g (rounds c s t n g) := by
  intro n
  induction n with
  | zero => intro g; exact ⟨0, [], le_rfl, rfl, .inl ⟨rfl, nofun, rfl⟩⟩
  | succ n ih =>
    intro g
    rw [rounds]
    dsimp only
    split
    · next hpass => exact .cons ((hround _).1 hpass) (ih _)
    · next hwitness =>
      exact ⟨1, [(g.drawRange 2 (c - 2)).1], by omega, rfl,
        .inr ⟨[], _, rfl, nofun, fun h => hwitness ((hround _).2 h), rfl⟩⟩

/-- For an odd prime all rounds are run and passed, with one draw each (R511 (b)). -/
theorem RoundsAnswer.of_prime {c n : Nat} {g : RandomSource} {r : Bool × RandomSource} (h : RoundsAnswer c n g r)
    (hc : c.Prime) (h4 : 4 ≤ c) : r.1 = true ∧ r.2.drawn = g.drawn + n := by
  obtain ⟨k, bases, -, hdraws, hcases⟩ := h
  have hpass : ∀ a ∈ bases, PassesRound c a := fun a ha => by
    obtain ⟨hlo, hhi⟩ := drawsOf_mem (lo := 2) (hi := c - 2) (by omega) k g a (by rwa [hdraws])
    exact passesRound_of_prime hc (by omega) (Nat.not_dvd_of_pos_of_lt (by omega) (by omega))
  obtain ⟨rfl, -, htrue⟩ | ⟨before, witness, rfl, -, hwitness, -⟩ := hcases
  · have hdrawn := drawsOf_drawn 2 (c - 2) k g
    rw [hdraws] at hdrawn
    exact ⟨htrue, hdrawn⟩
  · exact absurd (hpass witness (by simp)) hwitness

/-! ### IsPrime -/

theorem isPrime_of_lt_two {c : Nat} (h : c < 2) (n : Nat) (g : RandomSource) : isPrime c n g = (false, g) := if_pos h

theorem prime_of_mem_smallPrimes : ∀ sp ∈ Config.smallPrimes, sp.Prime := by decide

theorem le_of_mem_smallPrimes : ∀ sp ∈ Config.smallPrimes, sp ≤ 29 := by decide

theorem mem_smallPrimes : ∀ c ≤ 29, c.Prime → c ∈ Config.smallPrimes := by decide

/-- Trial division decides a candidate that a small prime divides, without a draw (R510, R511 (c)). The small prime it
finds need not be the one given, and it is the candidate if the one given is. -/
theorem isPrime_of_small_factor {c sp : Nat} (h2 : 2 ≤ c) (hmem : sp ∈ Config.smallPrimes) (hdvd : c % sp = 0) (n : Nat)
    (g : RandomSource) : isPrime c n g = (decide (c = sp), g) := by
  rw [isPrime, if_neg (by omega)]
  split
  · next found hfound =>
    have hmem' := List.mem_of_find?_eq_some hfound
    have hdvd' : c % found = 0 := by simpa using List.find?_some hfound
    have hsame {a b : Nat} (ha : a ∈ Config.smallPrimes) (hb : b ∈ Config.smallPrimes) (hb' : c % b = 0) :
        c = a → c = b := by
      rintro rfl
      exact ((Nat.prime_dvd_prime_iff_eq (prime_of_mem_smallPrimes b hb) (prime_of_mem_smallPrimes _ ha)).1
        (Nat.dvd_of_mod_eq_zero hb')).symm
    rw [decide_eq_decide.2 ⟨hsame hmem' hmem hdvd, hsame hmem hmem' hdvd'⟩]
  · next hnone => exact absurd hdvd (by simpa using List.find?_eq_none.1 hnone sp hmem)

/-- R510: a candidate with no small prime factor goes through the rounds. -/
theorem isPrime_roundsAnswer {c : Nat} (h2 : 2 ≤ c) (hno : ∀ sp ∈ Config.smallPrimes, c % sp ≠ 0) (n : Nat)
    (g : RandomSource) : RoundsAnswer c n g (isPrime c n g) := by
  have hodd : c % 2 ≠ 0 := hno 2 (by decide)
  obtain ⟨k, t, hkt, ht⟩ := exists_two_pow_mul_odd (v := c - 1) (by omega)
  have hk : k ≠ 0 := by
    rintro rfl
    omega
  obtain ⟨htwos, hdiv⟩ := twos_bitlen_eq hkt ht
  have hfind : (Config.smallPrimes.find? fun sp => c % sp == 0) = none :=
    List.find?_eq_none.2 fun sp hsp => by simpa using hno sp hsp
  rw [isPrime, if_neg (by omega), hfind]
  simp only [htwos, hdiv]
  exact rounds_answer (roundPasses_iff (by omega) hk hkt ht) n g

/-- R511 (b): IsPrime answers true for every prime, with one draw per round and none for a small prime. -/
theorem isPrime_of_prime {c : Nat} (hc : c.Prime) (n : Nat) (g : RandomSource) :
    (isPrime c n g).1 = true ∧ (isPrime c n g).2.drawn = g.drawn + if c ≤ 29 then 0 else n := by
  by_cases hsmall : c ≤ 29
  · rw [isPrime_of_small_factor hc.two_le (mem_smallPrimes c hsmall hc) (Nat.mod_self c), if_pos hsmall]
    exact ⟨decide_eq_true rfl, rfl⟩
  · rw [if_neg hsmall]
    refine (isPrime_roundsAnswer hc.two_le (fun sp hsp hdvd => ?_) n g).of_prime hc (by omega)
    have heq := (Nat.prime_dvd_prime_iff_eq (prime_of_mem_smallPrimes sp hsp) hc).1 (Nat.dvd_of_mod_eq_zero hdvd)
    exact hsmall (heq ▸ le_of_mem_smallPrimes sp hsp)

/-! ### Commands that draw and write one register -/

@[simp] theorem State.reg_finish (t : State) (failed : Bool) (code : BitVec 8) (r : Reg) :
    (t.finish failed code).reg r = t.reg r := rfl

@[simp] theorem State.written_finish (t : State) (failed : Bool) (code : BitVec 8) (r : Reg) :
    (t.finish failed code).written r = t.written r := rfl

/-- A command that commits its draws and a value for one register completes with both and with no other destination
written (R401, R403). -/
theorem exec_of_commit_setRng_setReg {i : Instr} {s : State} {rd : Reg} {v : Nat} {g : RandomSource}
    (h : commandResult s i = .commit ((s.setRng g).setReg rd v)) :
    ∃ t, exec i s = .next t ∧ t.reg rd = v ∧ t.written rd = true ∧ t.rng = g ∧ t.unwrittenRead = s.unwrittenRead ∧
      Succeeded s t ∧ OnlyRegisters [rd] [] s t := by
  have hnoted : Noted s (s.setRng g) := State.setRng_noted s g
  exact ⟨_, exec_of_commit h, State.reg_setReg_self _ rd v, State.written_setReg_self _ rd v, rfl, rfl,
    (hnoted.toKept.trans (State.setReg_kept _ rd v)).succeeded,
    ((OnlyRegisters.of_noted hnoted).setReg (by simp) v).finish _ _⟩

/-! ### RSA_PRIME_TEST -/

/-- The round count that AUX asks for, 5 where it is 0 (R512). -/
abbrev roundCount (aux : Fin 16) : Nat := if aux = 0 then 5 else aux.val

/-- RSA_PRIME_TEST of a written candidate writes IsPrime's answer as a number and makes its draws (R512). -/
theorem exec_rsaPrimeTest {rd ra : Reg} {s : State} (aux : Fin 16) (hw : Written [ra] s) :
    ∃ t, exec (.rsaPrimeTest rd ra aux) s = .next t ∧
      t.reg rd = (isPrime (s.reg ra) (roundCount aux) s.rng).1.toNat ∧ t.written rd = true ∧
      t.rng = (isPrime (s.reg ra) (roundCount aux) s.rng).2 ∧ t.unwrittenRead = s.unwrittenRead ∧
      Succeeded s t ∧ OnlyRegisters [rd] [] s t := by
  refine exec_of_commit_setRng_setReg ?_
  simp only [commandResult, cmdRsaPrimeTest, State.noteRegs_of_written s hw]
  rfl

/-- Settles O43: no base is a witness of a prime (`isPrime_of_prime`). -/
theorem primeTestAcceptsEveryPrime : Obligations.PrimeTestAcceptsEveryPrime := by
  intro rd ra aux s hw hprime
  obtain ⟨t, hexec, hreg, hwritten, hrng, hrest⟩ := exec_rsaPrimeTest (rd := rd) aux hw
  obtain ⟨htrue, hdrawn⟩ := isPrime_of_prime hprime (roundCount aux) s.rng
  exact ⟨t, hexec, by rw [hreg, htrue, Bool.toNat_true], hwritten, by rw [hrng, hdrawn], hrest⟩

/-- Settles O44: trial division decides without a draw (`isPrime_of_lt_two`, `isPrime_of_small_factor`), and what it does
not decide goes through the rounds (`isPrime_roundsAnswer`). -/
theorem primeTestRejectsByTrialDivision : Obligations.PrimeTestRejectsByTrialDivision := by
  intro rd ra aux s hw
  obtain ⟨t, hexec, hreg, hwritten, hrng, hrest⟩ := exec_rsaPrimeTest (rd := rd) aux hw
  refine ⟨t, hexec, ?_, hwritten, fun hreject => ?_, fun h2 hno => ?_, hrest⟩
  · rw [hreg]
    cases (isPrime (s.reg ra) (roundCount aux) s.rng).1
    · exact .inl rfl
    · exact .inr rfl
  · have hfalse : isPrime (s.reg ra) (roundCount aux) s.rng = (false, s.rng) := by
      by_cases h2 : s.reg ra < 2
      · exact isPrime_of_lt_two h2 _ _
      · obtain ⟨sp, hmem, hdvd, hne⟩ := hreject.resolve_left h2
        rw [isPrime_of_small_factor (by omega) hmem hdvd, decide_eq_false hne]
    rw [hreg, hrng, hfalse]
    exact ⟨rfl, rfl⟩
  · obtain ⟨k, bases, hk, hdraws, hcases⟩ := isPrime_roundsAnswer h2 hno (roundCount aux) s.rng
    refine ⟨k, bases, hk, hrng ▸ hdraws, ?_⟩
    obtain ⟨hall, hpass, htrue⟩ | ⟨before, witness, hbases, hbefore, hwitness, hfalse⟩ := hcases
    · exact .inl ⟨hall, hpass, by rw [hreg, htrue, Bool.toNat_true]⟩
    · exact .inr ⟨before, witness, hbases, hbefore, hwitness, by rw [hreg, hfalse, Bool.toNat_false]⟩

end Sys2Proof.Machine
end

section
/-! The prime search and key generation (45_rsa.md R513 to R519): what RSA_GEN_PRIME and RSA_KEYGEN write within one step's
budget (entry 9), and where RSA_KEYGEN raises. -/

namespace Sys2Proof.Machine

open Sys2Proof

/-! ### RSA_GEN_PRIME -/

/-- Every step examines at least one candidate (entry 9). -/
theorem State.searchFuel_pos (s : State) : 0 < s.searchFuel := Nat.mul_pos (Nat.succ_pos _) (by decide)

theorem RandomSource.drawBits_of_cons {g : RandomSource} {v : Nat} {rest : List Nat} (h : g.answers = v :: rest)
    (k : Nat) : (g.drawBits k).1 = v % 2 ^ k := by
  simp only [RandomSource.drawBits, RandomSource.answer, h]

/-- The first candidate of a search (R513). -/
abbrev firstCandidate (bits : Nat) (g : RandomSource) : Nat := candidate bits (g.drawBits bits).1

/-- IsPrime of the first candidate, with the draws after its own (R513). -/
abbrev firstTest (bits : Nat) (g : RandomSource) : Bool × RandomSource :=
  isPrime (firstCandidate bits g) Config.mrRoundsDefault (g.drawBits bits).2

/-- R513: the search takes its first candidate where that passes, and else goes on after the draws made. -/
theorem genPrime_succ (bits fuel : Nat) (g : RandomSource) :
    genPrime bits (fuel + 1) g =
      if (firstTest bits g).1 then some (firstCandidate bits g, (firstTest bits g).2)
      else genPrime bits fuel (firstTest bits g).2 := by
  simp only [genPrime]
  split
  · next heq => rw [firstTest, heq, if_pos rfl]
  · next heq => rw [firstTest, heq, if_neg Bool.false_ne_true]

/-- R513, R511 (b): a first candidate that is prime ends the search. -/
theorem genPrime_of_prime {bits fuel : Nat} {g : RandomSource} (hfuel : 0 < fuel)
    (hprime : (firstCandidate bits g).Prime) :
    genPrime bits fuel g = some (firstCandidate bits g, (firstTest bits g).2) := by
  obtain ⟨fuel, rfl⟩ := Nat.exists_eq_add_one_of_ne_zero hfuel.ne'
  obtain ⟨htrue, -⟩ := isPrime_of_prime hprime Config.mrRoundsDefault (g.drawBits bits).2
  rw [genPrime_succ, if_pos htrue]

/-- RSA_GEN_PRIME of an admissible size, where its search ends within the step's budget (R515, entry 9). -/
theorem cmdRsaGenPrime_eq_commit {rd ra : Reg} {s : State} {c : Nat} {g : RandomSource} (hw : Written [ra] s)
    (hlo : 2 ≤ s.reg ra) (hhi : s.reg ra ≤ s.cfg.opw) (hc : genPrime (s.reg ra) s.searchFuel s.rng = some (c, g)) :
    cmdRsaGenPrime rd ra s = .commit ((s.setRng g).setReg rd c) := by
  have hrange : ¬ (s.reg ra < 2 ∨ s.reg ra > s.cfg.opw) := by omega
  simp only [cmdRsaGenPrime, State.noteRegs_of_written s hw, if_neg hrange, hc]

/-- Settles O45: the first candidate is prime, so the search ends with it (`genPrime_of_prime`). -/
theorem genPrimeTakesAPrimeCandidate : Obligations.GenPrimeTakesAPrimeCandidate := by
  intro rd ra s v rest hw hlo hhi hanswers hprime
  rw [← RandomSource.drawBits_of_cons hanswers] at hprime ⊢
  have hg := genPrime_of_prime s.searchFuel_pos hprime
  obtain ⟨t, hexec, hreg, hwritten, -, hrest⟩ :=
    exec_of_commit_setRng_setReg (i := .rsaGenPrime rd ra) (cmdRsaGenPrime_eq_commit hw hlo hhi hg)
  exact ⟨t, hexec, hreg, hwritten, hrest⟩

/-! ### RSA_KEYGEN -/

/-- A prime of GenPrime has its top bit set (R513, R514 (a)). -/
theorem le_genPrime {bits : Nat} :
    ∀ (fuel : Nat) {g g' : RandomSource} {c : Nat}, genPrime bits fuel g = some (c, g') → 2 ^ (bits - 1) ≤ c := by
  intro fuel
  induction fuel with
  | zero => intro g g' c h; cases h
  | succ fuel ih =>
    intro g g' c h
    rw [genPrime_succ] at h
    split at h
    · cases h; exact Nat.right_le_or
    · exact ih h

/-- R517: for distinct p, q ≥ 2 with 65537 coprime to φ, the key has the inverse of 65537 modulo φ. As p ≠ q, φ is not 1,
whose inverse would be 0. -/
theorem keyOf_eq_key {p q : Nat} (hp : 2 ≤ p) (hq : 2 ≤ q) (hne : p ≠ q)
    (hcoprime : Nat.Coprime 65537 ((p - 1) * (q - 1))) :
    ∃ d, keyOf p q = .key (p * q) 65537 d ∧ 65537 * d % ((p - 1) * (q - 1)) = 1 ∧ 0 < d ∧ d < (p - 1) * (q - 1) := by
  have hphi : 1 < (p - 1) * (q - 1) := Nat.one_lt_mul_iff.2 ⟨by omega, by omega, by omega⟩
  obtain ⟨d, hd, hlt, hinv⟩ := (modInv_nat 65537 ((p - 1) * (q - 1)) (by omega)).1 hcoprime
  rw [Nat.mod_eq_of_lt hphi] at hinv
  refine ⟨d, ?_, hinv, Nat.pos_of_ne_zero ?_, hlt⟩
  · simp only [keyOf, if_neg hne, Config.rsaE, hd]
  · rintro rfl
    cases hinv

/-- R517, R607, R608: equal primes raise DEGENERATE, and else 65537 without an inverse modulo φ raises NO_INVERSE. -/
theorem keyOf_eq_failed {p q : Nat} (hp : 2 ≤ p) (hq : 2 ≤ q)
    (h : p = q ∨ ¬ Nat.Coprime 65537 ((p - 1) * (q - 1))) :
    keyOf p q = .failed (if p = q then .degenerate else .noInverse) := by
  by_cases heq : p = q
  · rw [keyOf, if_pos heq, if_pos heq]
  · have hphi : (p - 1) * (q - 1) ≠ 0 := Nat.mul_ne_zero (by omega) (by omega)
    have hnone := (modInv_nat 65537 _ hphi).2 (h.resolve_left heq)
    simp only [keyOf, if_neg heq, Config.rsaE, hnone]

theorem rsaKeygen_apart {rd ra rb rc : Reg} (hwf : (Instr.rsaKeygen rd ra rb rc).wellFormed = true) :
    ¬ (rd = rb ∨ rd = rc ∨ rb = rc) := by
  simp only [Instr.wellFormed, Bool.and_eq_true, decide_eq_true_eq] at hwf
  tauto

section
variable {rd ra rb rc : Reg} {s : State} {p q : Nat} {g1 g2 : RandomSource}
  (hwf : (Instr.rsaKeygen rd ra rb rc).wellFormed = true) (hw : Written [ra] s) (hlo : 4 ≤ s.reg ra)
  (hhi : s.reg ra ≤ s.cfg.opw) (hp : genPrime (s.reg ra / 2) s.searchFuel s.rng = some (p, g1))
  (hq : genPrime (s.reg ra / 2) s.searchFuel g1 = some (q, g2))
include hwf hw hlo hhi hp hq

/-- RSA_KEYGEN past its checks, where both searches end within the step's budget with a key (R518, entry 9). -/
theorem cmdRsaKeygen_eq_commit {n e d : Nat} (hkey : keyOf p q = .key n e d) :
    cmdRsaKeygen rd ra rb rc s = .commit ((((s.setRng g2).setReg rd n).setReg rb d).setReg rc e) := by
  simp only [cmdRsaKeygen, if_neg (rsaKeygen_apart hwf), State.noteRegs_of_written s hw,
    if_neg (not_or.2 ⟨hlo.not_gt, hhi.not_gt⟩), rsaKeygen, hp, hq, hkey]

/-- The same with an error (R518, R600): the draws of both searches are consumed. -/
theorem cmdRsaKeygen_eq_raise {e : ErrCode} (hkey : keyOf p q = .failed e) :
    cmdRsaKeygen rd ra rb rc s = .raise e (s.setRng g2) := by
  simp only [cmdRsaKeygen, if_neg (rsaKeygen_apart hwf), State.noteRegs_of_written s hw,
    if_neg (not_or.2 ⟨hlo.not_gt, hhi.not_gt⟩), rsaKeygen, hp, hq, hkey]

end

/-- R513, R517: two searches for primes of b ≥ 2 bits find p, q ≥ 2, and p·q has 2b − 1 or 2b bits. -/
theorem genPrime_sizes {b fuel p q : Nat} {g g1 g2 : RandomSource} (hb : 2 ≤ b)
    (hp : genPrime b fuel g = some (p, g1)) (hq : genPrime b fuel g1 = some (q, g2)) :
    2 ≤ p ∧ 2 ≤ q ∧ 2 ^ (2 * b - 2) ≤ p * q ∧ p * q < 2 ^ (2 * b) := by
  have hplo := le_genPrime fuel hp
  have hqlo := le_genPrime fuel hq
  have htwo : 2 ≤ 2 ^ (b - 1) := Nat.le_self_pow (by omega) 2
  refine ⟨htwo.trans hplo, htwo.trans hqlo, ?_, ?_⟩
  · calc 2 ^ (2 * b - 2) = 2 ^ (b - 1) * 2 ^ (b - 1) := by rw [← pow_add]; congr 1; omega
      _ ≤ p * q := Nat.mul_le_mul hplo hqlo
  · calc p * q < 2 ^ b * 2 ^ b := Nat.mul_lt_mul'' (genPrime_lt (by omega) fuel hp) (genPrime_lt (by omega) fuel hq)
      _ = 2 ^ (2 * b) := by rw [← pow_add, two_mul]

/-- A command that commits its draws and three values, for registers no two of which are the same, completes with all of
them and with no other destination written (R401, R403). -/
theorem exec_of_commit_three {i : Instr} {s : State} {rd rb rc : Reg} {n d e : Nat} {g : RandomSource}
    (hapart : ¬ (rd = rb ∨ rd = rc ∨ rb = rc))
    (h : commandResult s i = .commit ((((s.setRng g).setReg rd n).setReg rb d).setReg rc e)) :
    ∃ t, exec i s = .next t ∧ t.reg rd = n ∧ t.reg rb = d ∧ t.reg rc = e ∧ t.rng = g ∧ t.written rd = true ∧
      t.written rb = true ∧ t.written rc = true ∧ t.unwrittenRead = s.unwrittenRead ∧ Succeeded s t ∧
      OnlyRegisters [rd, rb, rc] [] s t := by
  have hnoted : Noted s (s.setRng g) := State.setRng_noted s g
  have hkept := hnoted.toKept.trans
    (((State.setReg_kept _ rd n).trans (State.setReg_kept _ rb d)).trans (State.setReg_kept _ rc e))
  simp only [not_or] at hapart
  obtain ⟨hdb, hdc, hbc⟩ := hapart
  refine ⟨_, exec_of_commit h, ?_, ?_, ?_, rfl, ?_, ?_, ?_, rfl, hkept.succeeded, ?_⟩
  · simp [State.reg_setReg, hdb, hdc]
  · simp [State.reg_setReg, hbc]
  · simp
  · simp [State.written_setReg]
  · simp [State.written_setReg]
  · simp
  · exact ((((OnlyRegisters.of_noted hnoted).setReg (by simp) n).setReg (by simp) d).setReg (by simp) e).finish _ _

/-- Settles O47: `keyOf` answers the key of R517 or its first error, and RSA_KEYGEN commits or raises that answer. -/
theorem rsaKeygenWritesAKeyOrRaises : Obligations.RsaKeygenWritesAKeyOrRaises := by
  intro rd ra rb rc s p q g1 g2 hwf hw hlo hhi hp hq
  obtain ⟨hp2, hq2, hnlo, hnhi⟩ := genPrime_sizes (by omega) hp hq
  constructor
  · intro hne hcoprime
    obtain ⟨d, hkey, hinv, hpos, hlt⟩ := keyOf_eq_key hp2 hq2 hne hcoprime
    have hcommit : commandResult s (.rsaKeygen rd ra rb rc) = _ := cmdRsaKeygen_eq_commit hwf hw hlo hhi hp hq hkey
    obtain ⟨t, hexec, hn, hd, he, hrest⟩ := exec_of_commit_three (rsaKeygen_apart hwf) hcommit
    rw [← hd] at hinv hpos hlt
    rw [← hn] at hnlo hnhi
    exact ⟨t, hexec, hn, he, hinv, hpos, hlt, hnlo, hnhi, hrest⟩
  · intro h
    have hraise : commandResult s (.rsaKeygen rd ra rb rc) = _ :=
      cmdRsaKeygen_eq_raise hwf hw hlo hhi hp hq (keyOf_eq_failed hp2 hq2 h)
    obtain ⟨t, hexec, hfailed, hnothing, hrng, -⟩ := exec_of_raise_noted hraise (State.setRng_noted s g2)
    rw [apply_ite ErrCode.code] at hfailed
    exact ⟨t, hexec, hfailed, hrng, hnothing⟩

end Sys2Proof.Machine
end

section
/-! Signing and verification (45_rsa.md R520 to R525): what RSA_SIGN stores, what RSA_VERIFY writes, and which signatures
verify. -/

namespace Sys2Proof.Machine

open Sys2Proof

/-! ### The shortest string -/

theorem leBytes_succ_eq_append (n : Nat) : ∀ v, leBytes (n + 1) v = leBytes n v ++ [BitVec.ofNat 8 (v / 256 ^ n)] := by
  induction n with
  | zero => intro v; simp [leBytes]
  | succ n ih =>
    intro v
    rw [leBytes, ih (v / 256), leBytes, List.cons_append, Nat.div_div_eq_div_mul, ← pow_succ']

/-- The highest of the nbytes(v) bytes of v is not 0 (R11). -/
theorem pow_le_of_nbytes_eq_succ {v n : Nat} (h : nbytes v = n + 1) : 256 ^ n ≤ v := by
  have hv : v ≠ 0 := by
    rintro rfl
    simp [nbytes, bitlen] at h
  rw [nbytes, bitlen, if_neg hv] at h
  calc 256 ^ n = 2 ^ (8 * n) := by rw [pow_mul]; rfl
    _ ≤ 2 ^ Nat.log2 v := Nat.pow_le_pow_right (by omega) (by omega)
    _ ≤ v := Nat.log2_self_le hv

/-- R12: minBE is the shortest string, so that it has no leading zero. -/
theorem minBE_head? (v : Nat) : (minBE v).head? ≠ some 0#8 := by
  rw [minBE]
  cases hn : nbytes v with
  | zero => simp [leBytes]
  | succ n =>
    have hlow := pow_le_of_nbytes_eq_succ hn
    have hhigh : v / 256 ^ n < 256 := by
      rw [Nat.div_lt_iff_lt_mul (by positivity), ← pow_succ', ← hn]
      exact lt_pow_nbytes v
    have hpos : 0 < v / 256 ^ n := Nat.div_pos hlow (by positivity)
    rw [leBytes_succ_eq_append, List.reverse_append, List.reverse_singleton, List.singleton_append, List.head?_cons]
    intro hzero
    have hdigit : v / 256 ^ n % 256 = 0 := congrArg BitVec.toNat (Option.some.inj hzero)
    omega

/-! ### RSA_SIGN and RSA_VERIFY -/

/-- R521: a signature is the integer BE(hash)^d mod n. -/
theorem beNat_sign {n : Nat} (hn : n ≠ 0) (d : Nat) (hb : List Byte) : beNat (sign n d hb) = beNat hb ^ d % n := by
  rw [sign, beNat_minBE, modExp_eq _ _ _ hn]

/-- R523: a signature verifies where BE(sig)^e mod n is BE(hash). -/
theorem verify_eq {n : Nat} (hn : n ≠ 0) (e : Nat) (hb sb : List Byte) :
    verify n e hb sb = decide (beNat sb ^ e % n = beNat hb) := by
  rw [verify, modExp_eq _ _ _ hn]

/-- Bytes that DMEM holds are read as they are, and reading them leaves no record (R205, R609). -/
theorem Holds.memRead {s : State} {r : Region} {bs : List Byte} (h : Holds s r.addr bs) (hlen : bs.length = r.len) :
    s.memRead r = bs ∧ s.regionWritten r = true := by
  obtain ⟨a, n⟩ := r
  obtain rfl : bs.length = n := hlen
  exact ⟨s.memRead_eq a bs h, s.regionWritten_of_read a bs h⟩

theorem cmdRsaSign_eq_commit {ra rb : Reg} {s : State} {hash : List Byte} (hw : Written [ra, rb] s) (hn : s.reg ra ≠ 0)
    (hlen : hash.length = s.desc.lenA.toNat) (hholds : Holds s s.desc.addrA.toNat hash)
    (hfits : s.desc.addrA.toNat + hash.length ≤ s.cfg.dmemBytes)
    (hroom : s.desc.addrD.toNat + nbytes (s.reg ra) ≤ s.cfg.dmemBytes) :
    cmdRsaSign ra rb s = .commit (s.storeOutput (sign (s.reg ra) (s.reg rb) hash)) := by
  obtain ⟨hread, hregion⟩ := Holds.memRead (r := s.regionA s.desc.lenA.toNat) hholds hlen
  have hA : s.fits (s.regionA s.desc.lenA.toNat) = true := decide_eq_true (by rwa [← hlen])
  have hD : s.fits (s.regionD (nbytes (s.reg ra))) = true := decide_eq_true hroom
  have hnote : s.noteMem [s.regionA s.desc.lenA.toNat] = s := s.noteMem_of_written (by simpa using hregion)
  simp only [cmdRsaSign, State.noteRegs_of_written s hw, hA, hD, hread, hnote, if_neg hn, Bool.and_self, Bool.not_true,
    Bool.false_eq_true, if_false]

theorem cmdRsaVerify_eq_commit {rd ra rb : Reg} {s : State} {hash sig : List Byte} (hw : Written [ra, rb] s)
    (hn : s.reg ra ≠ 0) (hlen : hash.length = s.desc.lenA.toNat) (hholds : Holds s s.desc.addrA.toNat hash)
    (hlen' : sig.length = s.desc.lenB.toNat) (hholds' : Holds s s.desc.addrB.toNat sig)
    (hfits : s.desc.addrA.toNat + hash.length ≤ s.cfg.dmemBytes)
    (hfits' : s.desc.addrB.toNat + sig.length ≤ s.cfg.dmemBytes) :
    cmdRsaVerify rd ra rb s = .commit (s.setReg rd (verify (s.reg ra) (s.reg rb) hash sig).toNat) := by
  obtain ⟨hread, hregion⟩ := Holds.memRead (r := s.regionA s.desc.lenA.toNat) hholds hlen
  obtain ⟨hread', hregion'⟩ := Holds.memRead (r := s.regionB s.desc.lenB.toNat) hholds' hlen'
  have hA : s.fits (s.regionA s.desc.lenA.toNat) = true := decide_eq_true (by rwa [← hlen])
  have hB : s.fits (s.regionB s.desc.lenB.toNat) = true := decide_eq_true (by rwa [← hlen'])
  have hnote : s.noteMem [s.regionA s.desc.lenA.toNat, s.regionB s.desc.lenB.toNat] = s :=
    s.noteMem_of_written (by simpa using ⟨hregion, hregion'⟩)
  simp only [cmdRsaVerify, State.noteRegs_of_written s hw, hA, hB, hread, hread', hnote, if_neg hn, Bool.and_self,
    Bool.not_true, Bool.false_eq_true, if_false]

/-- A command that commits one output string completes with it at ADDR_D, its length in LEN_D, and with no other
destination written (R114, R401). -/
theorem exec_of_commit_storeOutput {i : Instr} {s : State} {out : List Byte}
    (h : commandResult s i = .commit (s.storeOutput out)) :
    ∃ t, exec i s = .next t ∧ Holds t s.desc.addrD.toNat out ∧ t.desc.lenD = BitVec.ofNat 32 out.length ∧
      Succeeded s t ∧ OnlyOutput s.desc.addrD.toNat out.length s t ∧ Quiet s t := by
  refine ⟨_, exec_of_commit h, fun i hi => Memory.read_writeBytes_inside _ _ _ hi, rfl,
    (State.storeOutput_kept s out).succeeded, ⟨fun _ => rfl, rfl, fun b hb => ?_, rfl, rfl, rfl, rfl, rfl, rfl, rfl⟩,
    rfl, rfl, rfl⟩
  exact Memory.read_writeBytes_of_outside _ _ _ hb

/-- Settles O48: the stored string is minBE of the signature, which has no leading zero (`minBE_head?`). -/
theorem rsaSignStoresTheSignature : Obligations.RsaSignStoresTheSignature := by
  intro ra rb s hash hw hn hlen hholds hfits hroom
  obtain ⟨t, hexec, hstored⟩ :=
    exec_of_commit_storeOutput (i := .rsaSign ra rb) (cmdRsaSign_eq_commit hw hn hlen hholds hfits hroom)
  exact ⟨t, _, hexec, beNat_sign hn _ _, minBE_head? _, sign_length_le hn _ _, hstored⟩

/-- Settles O49: the committed value is Verify's answer (`verify_eq`). -/
theorem rsaVerifyComparesIntegers : Obligations.RsaVerifyComparesIntegers := by
  intro rd ra rb s hash sig hw hn hlen hholds hlen' hholds' hfits hfits'
  obtain ⟨t, hexec, hreg, hrest⟩ := exec_of_commit_setReg (i := .rsaVerify rd ra rb)
    (cmdRsaVerify_eq_commit (rd := rd) hw hn hlen hholds hlen' hholds' hfits hfits')
  refine ⟨t, hexec, ?_, hrest⟩
  rw [hreg, verify_eq hn]
  split
  · next heq => rw [decide_eq_true heq, Bool.toNat_true]
  · next hne => rw [decide_eq_false hne, Bool.toNat_false]

/-! ### Signatures verify -/

/-- An exponent that is 1 modulo p − 1 changes no residue modulo a prime p, the residue 0 among them (R524 (a)). -/
theorem pow_modEq_self_of_prime {p x : Nat} (hp : p.Prime) (hx : 1 ≤ x) (hdvd : p - 1 ∣ x - 1) (h : Nat) :
    h ^ x ≡ h [MOD p] := by
  have hpow := Int.ModEq.pow_eq_pow hp hdvd hx Nat.one_pos (h : Int)
  rw [pow_one] at hpow
  exact Int.natCast_modEq_iff.1 (by rwa [Nat.cast_pow])

/-- R524 (a): for distinct primes p, q an exponent that is 1 modulo (p − 1)(q − 1) changes no residue modulo p·q. -/
theorem pow_modEq_self_of_primes {p q x : Nat} (hp : p.Prime) (hq : q.Prime) (hne : p ≠ q) (hx : 1 ≤ x)
    (hdvd : (p - 1) * (q - 1) ∣ x - 1) (h : Nat) : h ^ x ≡ h [MOD p * q] :=
  (Nat.modEq_and_modEq_iff_modEq_mul ((Nat.coprime_primes hp hq).2 hne)).1
    ⟨pow_modEq_self_of_prime hp hx (dvd_of_mul_right_dvd hdvd) h,
      pow_modEq_self_of_prime hq hx (dvd_of_mul_left_dvd hdvd) h⟩

/-- Settles O50: signing and verifying raise BE(hash) to the power e·d, which is BE(hash) mod n. -/
theorem signaturesOfShortHashesVerify : Obligations.SignaturesOfShortHashesVerify := by
  intro p q e d hash hp hq hne hed
  have hn : p * q ≠ 0 := Nat.mul_ne_zero hp.ne_zero hq.ne_zero
  have hpos : 1 ≤ e * d := by
    refine Nat.pos_of_ne_zero fun hzero => ?_
    rw [hzero, Nat.zero_mod] at hed
    cases hed
  have hdvd := Nat.dvd_sub_mod (n := (p - 1) * (q - 1)) (e * d)
  rw [hed] at hdvd
  have hround : (beNat hash ^ d % (p * q)) ^ e % (p * q) = beNat hash % (p * q) := calc
    (beNat hash ^ d % (p * q)) ^ e % (p * q) = (beNat hash ^ d) ^ e % (p * q) := (Nat.pow_mod _ _ _).symm
    _ = beNat hash ^ (e * d) % (p * q) := by rw [← pow_mul, mul_comm d e]
    _ = beNat hash % (p * q) := pow_modEq_self_of_primes hp hq hne hpos hdvd _
  rw [verify_eq hn, decide_eq_true_iff, beNat_sign hn, hround]
  exact Nat.mod_eq_iff_lt hn

end Sys2Proof.Machine
end

section
/-! Salsa20 words and rounds (46_salsa20.md R550 to R557): the words and the bytes of a string, the rounds on sixteen
numbered words, and why the ten DoubleRounds are a bijection. -/

namespace Sys2Proof.Machine

open Sys2Proof

/-! ### Words and bytes -/

theorem leNat_leBytes_mod (n : Nat) : ∀ v, leNat (leBytes n v) = v % 256 ^ n := by
  induction n with
  | zero => intro v; simp [leBytes, leNat, Nat.mod_one]
  | succ n ih =>
    intro v
    rw [leBytes, leNat, ih (v / 256), BitVec.toNat_ofNat, pow_succ' 256]
    exact Nat.mod_mul.symm

theorem leBytes_add (m n : Nat) : ∀ v, leBytes (m + n) v = leBytes m v ++ leBytes n (v / 256 ^ m) := by
  induction m with
  | zero => intro v; simp [leBytes]
  | succ m ih =>
    intro v
    rw [Nat.add_right_comm, leBytes, ih (v / 256), leBytes, List.cons_append, Nat.div_div_eq_div_mul, ← pow_succ']

theorem exists_four_of_length {s : List Byte} {n : Nat} (h : s.length = n + 4) :
    ∃ b0 b1 b2 b3 s', s = b0 :: b1 :: b2 :: b3 :: s' ∧ s'.length = n := by
  obtain ⟨b0, s, rfl⟩ := List.exists_cons_of_length_eq_add_one h
  obtain ⟨b1, s, rfl⟩ := List.exists_cons_of_length_eq_add_one (Nat.succ.inj h)
  obtain ⟨b2, s, rfl⟩ := List.exists_cons_of_length_eq_add_one (Nat.succ.inj (Nat.succ.inj h))
  obtain ⟨b3, s, rfl⟩ := List.exists_cons_of_length_eq_add_one (Nat.succ.inj (Nat.succ.inj (Nat.succ.inj h)))
  exact ⟨b0, b1, b2, b3, s, rfl, by simpa using h⟩

/-- R550: a string of length 4n has n words, `wordAt` each. -/
theorem wordsOf_eq_map_wordAt (n : Nat) : ∀ s : List Byte, s.length = 4 * n →
    wordsOf s = (List.range n).map (wordAt s) := by
  induction n with
  | zero =>
    intro s h
    obtain rfl := List.eq_nil_of_length_eq_zero h
    rfl
  | succ n ih =>
    intro s h
    obtain ⟨b0, b1, b2, b3, s', rfl, hs'⟩ := exists_four_of_length h
    rw [wordsOf, ih s' hs', List.range_succ_eq_map, List.map_cons, List.map_map]
    rfl

/-- R550: Words of a string of whole words and what follows it. -/
theorem wordsOf_append {n : Nat} : ∀ {s : List Byte} (t : List Byte), s.length = 4 * n →
    wordsOf (s ++ t) = wordsOf s ++ wordsOf t := by
  induction n with
  | zero =>
    intro s t h
    obtain rfl := List.eq_nil_of_length_eq_zero h
    rfl
  | succ n ih =>
    intro s t h
    obtain ⟨b0, b1, b2, b3, s', rfl, hs'⟩ := exists_four_of_length h
    simp only [List.cons_append, wordsOf, ih t hs']

@[simp] theorem wordsOf_leBytes_four (v : Nat) : wordsOf (leBytes 4 v) = [BitVec.ofNat 32 v] := by
  have hword : BitVec.ofNat 32 (leNat (leBytes 4 v)) = BitVec.ofNat 32 v := by
    rw [leNat_leBytes_mod]
    exact BitVec.eq_of_toNat_eq (by simp)
  rw [← hword]
  rfl

/-- R550: Words(Bytes(ws)) = ws. -/
@[simp] theorem wordsOf_bytesOf (ws : List Word) : wordsOf (bytesOf ws) = ws := by
  induction ws with
  | nil => rfl
  | cons w ws ih =>
    rw [bytesOf, wordsOf_append (n := 1) _ (leBytes_length 4 _), wordsOf_leBytes_four, ih, BitVec.ofNat_toNat,
      BitVec.setWidth_eq, List.singleton_append]

/-- R550: byte k of word i of Bytes(ws). -/
theorem bytesOf_getElem? (ws : List Word) (i k : Nat) (hk : k < 4) :
    (bytesOf ws)[4 * i + k]? = ws[i]?.map fun w => w.extractLsb' (8 * k) 8 := by
  induction ws generalizing i with
  | nil => rfl
  | cons w ws ih =>
    rw [bytesOf]
    cases i with
    | zero =>
      rw [Nat.mul_zero, Nat.zero_add, List.getElem?_append_left (by simpa using hk), leBytes_word]
      interval_cases k <;> rfl
    | succ i =>
      rw [List.getElem?_append_right (by rw [leBytes_length]; omega), leBytes_length,
        show 4 * (i + 1) + k - 4 = 4 * i + k by omega, ih, List.getElem?_cons_succ]

/-! ### The quarter-round -/

/-- rotl is the rotation of the word (R550). -/
theorem rotl_eq_rotateLeft (u : Word) {c : Nat} (hc : c < 32) : rotl u c = u.rotateLeft c := by
  rw [BitVec.rotateLeft_def, Nat.mod_eq_of_lt hc, rotl]

/-- The four steps of R551 in the order in which they are taken. -/
theorem quarterRound_eq {y0 y1 y2 y3 z0 z1 z2 z3 : Word} (h1 : z1 = y1 ^^^ (y0 + y3).rotateLeft 7)
    (h2 : z2 = y2 ^^^ (z1 + y0).rotateLeft 9) (h3 : z3 = y3 ^^^ (z2 + z1).rotateLeft 13)
    (h0 : z0 = y0 ^^^ (z3 + z2).rotateLeft 18) : quarterRound ⟨y0, y1, y2, y3⟩ = ⟨z0, z1, z2, z3⟩ := by
  subst h1 h2 h3 h0
  rfl

/-- The steps of R551 undone, the last one first. -/
def quarterRoundInv (z : Quad) : Quad :=
  let y0 := z.w0 ^^^ rotl (z.w3 + z.w2) 18
  let y3 := z.w3 ^^^ rotl (z.w2 + z.w1) 13
  let y2 := z.w2 ^^^ rotl (z.w1 + y0) 9
  let y1 := z.w1 ^^^ rotl (y0 + y3) 7
  ⟨y0, y1, y2, y3⟩

theorem quarterRoundInv_leftInverse : Function.LeftInverse quarterRoundInv quarterRound := fun y => by
  simp [quarterRoundInv, quarterRound]

theorem quarterRoundInv_rightInverse : Function.RightInverse quarterRoundInv quarterRound := fun z => by
  simp [quarterRoundInv, quarterRound]

/-! ### The rounds on sixteen numbered words -/

/-- The state of sixteen numbered words (R554). -/
def blockAt (x : Nat → Word) : Block where
  x0 := x 0
  x1 := x 1
  x2 := x 2
  x3 := x 3
  x4 := x 4
  x5 := x 5
  x6 := x 6
  x7 := x 7
  x8 := x 8
  x9 := x 9
  x10 := x 10
  x11 := x 11
  x12 := x 12
  x13 := x 13
  x14 := x 14
  x15 := x 15

theorem blockAt_words (x : Nat → Word) : (blockAt x).words = (List.range 16).map x := rfl

/-- R550, R555: the block of a 64-byte string has its sixteen words. -/
theorem blockOf_wordsOf {s : List Byte} (h : s.length = 64) : blockOf (wordsOf s) = blockAt (wordAt s) := by
  rw [wordsOf_eq_map_wordAt 16 s h]
  rfl

/-- A quarter-round in place writes the four words of its tuple, and no other. -/
theorem quarterAt_eq (i j k l : Nat) (x : Nat → Word) (m : Nat) :
    quarterAt i j k l x m =
      if m = i then (quarterRound ⟨x i, x j, x k, x l⟩).w0
      else if m = j then (quarterRound ⟨x i, x j, x k, x l⟩).w1
      else if m = k then (quarterRound ⟨x i, x j, x k, x l⟩).w2
      else if m = l then (quarterRound ⟨x i, x j, x k, x l⟩).w3
      else x m := rfl

/-- The tuples of a round share no word, so that its quarter-rounds in turn are those of the machine at once. -/
theorem columnRound_blockAt (x : Nat → Word) : columnRound (blockAt x) = blockAt (columnRoundAt x) := by
  simp [columnRound, columnRoundAt, blockAt, quarterAt_eq]

theorem rowRound_blockAt (x : Nat → Word) : rowRound (blockAt x) = blockAt (rowRoundAt x) := by
  simp [rowRound, rowRoundAt, blockAt, quarterAt_eq]

/-- R554: the DoubleRounds on the index tuples are those of the machine. -/
theorem doubleRounds_blockAt (n : Nat) (x : Nat → Word) :
    doubleRounds n (blockAt x) = blockAt (doubleRoundsAt n x) := by
  induction n generalizing x with
  | zero => rfl
  | succ n ih => rw [doubleRounds, doubleRound, columnRound_blockAt, rowRound_blockAt, ih, doubleRoundsAt]

/-- R555: byte k of word i of Core is byte k of z[i] ⊞ x[i]. -/
theorem core64_getElem? {s : List Byte} (h : s.length = 64) {i k : Nat} (hi : i < 16) (hk : k < 4) :
    (core64 s)[4 * i + k]? = some ((doubleRoundsAt 10 (wordAt s) i + wordAt s i).extractLsb' (8 * k) 8) := by
  simp [core64, blockOf_wordsOf h, doubleRounds_blockAt, blockAt_words, bytesOf_getElem?, hk, hi]

/-! ### The rounds are a bijection -/

/-- ColumnRound on the tuples of R554, with any function in the place of the quarter-round. -/
def columnsWith (f : Quad → Quad) (x : Block) : Block :=
  let a := f ⟨x.x0, x.x4, x.x8, x.x12⟩
  let b := f ⟨x.x5, x.x9, x.x13, x.x1⟩
  let c := f ⟨x.x10, x.x14, x.x2, x.x6⟩
  let d := f ⟨x.x15, x.x3, x.x7, x.x11⟩
  { x0 := a.w0, x4 := a.w1, x8 := a.w2, x12 := a.w3
    x5 := b.w0, x9 := b.w1, x13 := b.w2, x1 := b.w3
    x10 := c.w0, x14 := c.w1, x2 := c.w2, x6 := c.w3
    x15 := d.w0, x3 := d.w1, x7 := d.w2, x11 := d.w3 }

/-- The state whose word 4r + c is word 4c + r. -/
def Block.transpose (x : Block) : Block where
  x0 := x.x0
  x1 := x.x4
  x2 := x.x8
  x3 := x.x12
  x4 := x.x1
  x5 := x.x5
  x6 := x.x9
  x7 := x.x13
  x8 := x.x2
  x9 := x.x6
  x10 := x.x10
  x11 := x.x14
  x12 := x.x3
  x13 := x.x7
  x14 := x.x11
  x15 := x.x15

theorem Block.transpose_involutive : Function.Involutive Block.transpose := fun _ => rfl

theorem columnRound_eq_columnsWith : columnRound = columnsWith quarterRound := rfl

/-- The rows of R554 are the columns of the transposed state, in the same order (90_conflicts.md C7). -/
theorem rowRound_eq_transpose : rowRound = Block.transpose ∘ columnRound ∘ Block.transpose := rfl

theorem columnsWith_leftInverse {f g : Quad → Quad} (h : Function.LeftInverse g f) :
    Function.LeftInverse (columnsWith g) (columnsWith f) := fun x => by
  simp only [columnsWith, h _]

theorem columnRound_bijective : Function.Bijective columnRound :=
  Function.bijective_iff_has_inverse.2 ⟨columnsWith quarterRoundInv,
    columnsWith_leftInverse quarterRoundInv_leftInverse, columnsWith_leftInverse quarterRoundInv_rightInverse⟩

theorem rowRound_bijective : Function.Bijective rowRound := by
  rw [rowRound_eq_transpose]
  exact Block.transpose_involutive.bijective.comp
    (columnRound_bijective.comp Block.transpose_involutive.bijective)

theorem doubleRounds_bijective (n : Nat) : Function.Bijective (doubleRounds n) := by
  induction n with
  | zero => exact Function.bijective_id
  | succ n ih => exact ih.comp (rowRound_bijective.comp columnRound_bijective)

/-- Settles O57: each quarter-round is undone by `quarterRoundInv`, hence each round on its disjoint tuples. -/
theorem theRoundsAreABijection : Obligations.TheRoundsAreABijection := doubleRounds_bijective 10

end Sys2Proof.Machine
end

section
/-! The Salsa20 commands (46_salsa20.md R553, R556, R558 to R562): what SALSA_QR, SALSA_BLOCK, SALSA_KS and SALSA_XOR store. -/

namespace Sys2Proof.Machine

open Sys2Proof

/-! ### The block inputs -/

theorem wordAt_take {s : List Byte} {n i : Nat} (hi : i < n) : wordAt (s.take (4 * n)) i = wordAt s i := by
  rw [wordAt, wordAt, List.drop_take, List.take_take, Nat.min_eq_left (by omega)]

theorem wordsOf_take {s : List Byte} {n : Nat} (h : 4 * n ≤ s.length) :
    wordsOf (s.take (4 * n)) = (List.range n).map (wordAt s) := by
  rw [wordsOf_eq_map_wordAt n _ (by simpa using h)]
  exact List.map_congr_left fun i hi => wordAt_take (List.mem_range.1 hi)

theorem wordAt_drop (s : List Byte) (n i : Nat) : wordAt (s.drop (4 * n)) i = wordAt s (n + i) := by
  rw [wordAt, wordAt, List.drop_drop, ← Nat.mul_add]

/-- R558: the two words of the block index. -/
theorem wordsOf_leBytes_eight (v : Nat) :
    wordsOf (leBytes 8 v) = [BitVec.ofNat 32 v, BitVec.ofNat 32 (v / 2 ^ 32)] := by
  rw [leBytes_add 4 4, wordsOf_append (n := 1) _ (leBytes_length 4 v), wordsOf_leBytes_four, wordsOf_leBytes_four]
  rfl

theorem blockInput_length {key nonce : List Byte} (hkey : key.length = 32) (hnonce : nonce.length = 8) (i : Nat) :
    (blockInput key nonce i).length = 64 := by
  simp [blockInput, hkey, hnonce]

/-- R558: the words of the two halves of a 32-byte key. -/
theorem wordsOf_key_halves {key : List Byte} (hkey : key.length = 32) :
    wordsOf (key.take 16) = [wordAt key 0, wordAt key 1, wordAt key 2, wordAt key 3] ∧
      wordsOf ((key.drop 16).take 16) = [wordAt key 4, wordAt key 5, wordAt key 6, wordAt key 7] := by
  have hhigh : wordsOf ((key.drop 16).take 16) = (List.range 4).map (wordAt (key.drop 16)) :=
    wordsOf_take (n := 4) (by simp [hkey])
  rw [List.map_congr_left fun i _ => wordAt_drop key 4 i] at hhigh
  exact ⟨wordsOf_take (n := 4) (by omega), hhigh⟩

/-- R558: the sixteen words of a block input. -/
theorem wordsOf_blockInput {key nonce : List Byte} (hkey : key.length = 32) (hnonce : nonce.length = 8) (i : Nat) :
    wordsOf (blockInput key nonce i) =
      [0x61707865#32, wordAt key 0, wordAt key 1, wordAt key 2, wordAt key 3,
       0x3320646e#32, wordAt nonce 0, wordAt nonce 1, BitVec.ofNat 32 i, BitVec.ofNat 32 (i / 2 ^ 32),
       0x79622d32#32, wordAt key 4, wordAt key 5, wordAt key 6, wordAt key 7, 0x6b206574#32] := by
  obtain ⟨hlow, hhigh⟩ := wordsOf_key_halves hkey
  have hnonceWords : wordsOf nonce = [wordAt nonce 0, wordAt nonce 1] := wordsOf_eq_map_wordAt 2 nonce hnonce
  simp only [blockInput, List.append_assoc]
  rw [wordsOf_append (n := 1) _ (leBytes_length _ _), wordsOf_append (n := 4) _ (by simp [hkey]),
    wordsOf_append (n := 1) _ (leBytes_length _ _), wordsOf_append (n := 2) _ hnonce,
    wordsOf_append (n := 2) _ (leBytes_length _ _), wordsOf_append (n := 1) _ (leBytes_length _ _),
    wordsOf_append (n := 4) _ (by simp [hkey]), hlow, hhigh, hnonceWords, wordsOf_leBytes_eight]
  simp only [wordsOf_leBytes_four, BitVec.ofNat_toNat, BitVec.setWidth_eq]
  rfl

/-! ### The keystream -/

theorem keystreamBlocks_getElem? (key nonce : List Byte) {n j : Nat} (i : Nat) (hj : j < 64 * n) :
    (keystreamBlocks key nonce n i)[j]? = (core64 (blockInput key nonce (i + j / 64)))[j % 64]? := by
  induction n generalizing i j with
  | zero => omega
  | succ n ih =>
    rw [keystreamBlocks]
    by_cases h : j < 64
    · rw [List.getElem?_append_left (by simpa using h), Nat.div_eq_of_lt h, Nat.mod_eq_of_lt h, Nat.add_zero]
    · rw [List.getElem?_append_right (by simpa using h), core64_length, ih (i + 1) (by omega)]
      rw [show i + 1 + (j - 64) / 64 = i + j / 64 by omega, show (j - 64) % 64 = j % 64 by omega]

/-- R559: byte j of the keystream is byte j mod 64 of block j div 64. -/
theorem keystream_getElem? (key nonce : List Byte) {len j : Nat} (hj : j < len) :
    (keystream key nonce len)[j]? = (core64 (blockInput key nonce (j / 64)))[j % 64]? := by
  rw [keystream, List.getElem?_take_of_lt hj, keystreamBlocks_getElem? _ _ _ (by rw [Config.blockBytes]; omega),
    Nat.zero_add]

/-- R559: a longer keystream begins with the shorter one. -/
theorem keystream_take (key nonce : List Byte) {m n : Nat} (h : m ≤ n) :
    (keystream key nonce n).take m = keystream key nonce m := by
  apply List.ext_getElem?
  intro j
  by_cases hj : j < m
  · rw [List.getElem?_take_of_lt hj, keystream_getElem? _ _ hj, keystream_getElem? _ _ (hj.trans_le h)]
  · rw [List.getElem?_eq_none (by simp; omega), List.getElem?_eq_none (by simp; omega)]

/-- A masked byte is the exclusive or of the data's byte and the mask's (R561). -/
theorem xorBytes_getElem? {s m : List Byte} {j : Nat} {b k : Byte} (hb : s[j]? = some b) (hk : m[j]? = some k) :
    (xorBytes s m)[j]? = some (b ^^^ k) := by
  rw [xorBytes, List.getElem?_zipWith, hb, hk]

/-! ### The commands -/

/-- A region inside DMEM whose bytes all stand there passes its range check, is read as it stands, and leaves no record
(R205, R206, R609). -/
theorem Holds.source {s : State} {r : Region} {bs : List Byte} (h : Holds s r.addr bs) (hlen : bs.length = r.len)
    (hfits : r.addr + r.len ≤ s.cfg.dmemBytes) :
    s.fits r = true ∧ s.memRead r = bs ∧ s.regionWritten r = true :=
  ⟨decide_eq_true hfits, h.memRead hlen⟩

theorem State.lengthsOk_of_eq {s : State} (hk : s.desc.lenK = 32#32) (hn : s.desc.lenN = 8#32) : s.lengthsOk = true := by
  rw [State.lengthsOk, hk, hn]
  rfl

theorem cmdSalsaQr_eq_commit {s : State} {src : List Byte} (hlen : src.length = 16)
    (hholds : Holds s s.desc.addrA.toNat src) (hfits : s.desc.addrA.toNat + 16 ≤ s.cfg.dmemBytes)
    (hroom : s.desc.addrD.toNat + 16 ≤ s.cfg.dmemBytes) :
    cmdSalsaQr s = .commit (s.storeOutput (bytesOf (quarterRound (quadOf (wordsOf src))).words)) := by
  obtain ⟨hA, hread, hregion⟩ := Holds.source (r := s.regionA 16) hholds hlen hfits
  have hD : s.fits (s.regionD 16) = true := decide_eq_true hroom
  have hnote : s.noteMem [s.regionA 16] = s := s.noteMem_of_written (by simpa using hregion)
  simp only [cmdSalsaQr, hA, hD, hread, hnote, Bool.and_self, Bool.not_true, Bool.false_eq_true, if_false]

theorem cmdSalsaBlock_eq_commit {s : State} {src : List Byte} (hlen : src.length = 64)
    (hholds : Holds s s.desc.addrA.toNat src) (hfits : s.desc.addrA.toNat + 64 ≤ s.cfg.dmemBytes)
    (hroom : s.desc.addrD.toNat + 64 ≤ s.cfg.dmemBytes) :
    cmdSalsaBlock s = .commit (s.storeOutput (core64 src)) := by
  obtain ⟨hA, hread, hregion⟩ := Holds.source (r := s.regionA 64) hholds hlen hfits
  have hD : s.fits (s.regionD 64) = true := decide_eq_true hroom
  have hnote : s.noteMem [s.regionA 64] = s := s.noteMem_of_written (by simpa using hregion)
  simp only [cmdSalsaBlock, hA, hD, hread, hnote, Bool.and_self, Bool.not_true, Bool.false_eq_true, if_false]

/-- Settles O51: the sixteen bytes are the four words (`wordsOf_bytesOf`), and the steps are those of `quarterRound_eq`. -/
theorem salsaQrStoresTheQuarterRound : Obligations.SalsaQrStoresTheQuarterRound := by
  intro s y0 y1 y2 y3 z0 z1 z2 z3 hholds hfits hroom h1 h2 h3 h0
  have hbytes (w0 w1 w2 w3 : Word) :
      leBytes 4 w0.toNat ++ leBytes 4 w1.toNat ++ leBytes 4 w2.toNat ++ leBytes 4 w3.toNat =
        bytesOf [w0, w1, w2, w3] := by
    simp only [bytesOf, List.append_assoc, List.append_nil]
  rw [hbytes] at hholds
  have hcommit := cmdSalsaQr_eq_commit (bytesOf_length _) hholds hfits hroom
  rw [wordsOf_bytesOf] at hcommit
  have hround : quarterRound (quadOf [y0, y1, y2, y3]) = ⟨z0, z1, z2, z3⟩ := quarterRound_eq h1 h2 h3 h0
  rw [hround] at hcommit
  rw [hbytes]
  exact exec_of_commit_storeOutput (i := .salsaQr) hcommit

/-- Settles O52: the stored string is Core, whose bytes `core64_getElem?` gives. -/
theorem salsaBlockStoresCore : Obligations.SalsaBlockStoresCore := by
  intro s src hlen hholds hfits hroom
  obtain ⟨t, hexec, hstored, hrest⟩ :=
    exec_of_commit_storeOutput (i := .salsaBlock) (cmdSalsaBlock_eq_commit hlen hholds hfits hroom)
  rw [core64_length] at hrest
  exact ⟨t, hexec, core64_length src, hstored, fun i k hi hk => core64_getElem? hlen hi hk, hrest⟩

section
variable {s : State} {key nonce data : List Byte} (hlenK : s.desc.lenK = 32#32) (hlenN : s.desc.lenN = 8#32)
  (hkey : key.length = 32) (hnonce : nonce.length = 8) (hholdsK : Holds s s.desc.addrK.toNat key)
  (hholdsN : Holds s s.desc.addrN.toNat nonce) (hfitsK : s.desc.addrK.toNat + 32 ≤ s.cfg.dmemBytes)
  (hfitsN : s.desc.addrN.toNat + 8 ≤ s.cfg.dmemBytes)
include hlenK hlenN hkey hnonce hholdsK hholdsN hfitsK hfitsN

theorem cmdSalsaKs_eq_commit (hroom : s.desc.addrD.toNat + s.desc.lenA.toNat ≤ s.cfg.dmemBytes) :
    cmdSalsaKs s = .commit (s.storeOutput (keystream key nonce s.desc.lenA.toNat)) := by
  obtain ⟨hK, hreadK, hregionK⟩ := Holds.source (r := s.regionK 32) hholdsK hkey hfitsK
  obtain ⟨hN, hreadN, hregionN⟩ := Holds.source (r := s.regionN 8) hholdsN hnonce hfitsN
  have hD : s.fits (s.regionD s.desc.lenA.toNat) = true := decide_eq_true hroom
  have hnote : s.noteMem [s.regionK 32, s.regionN 8] = s := s.noteMem_of_written (by simpa using ⟨hregionK, hregionN⟩)
  simp only [cmdSalsaKs, State.lengthsOk_of_eq hlenK hlenN, hK, hN, hD, hreadK, hreadN, hnote, Bool.and_self,
    Bool.not_true, Bool.false_eq_true, if_false]

/-- The commands of R562, R591 and R593 past their checks. -/
theorem cmdStream_eq_commit (cipher : List Byte → List Byte → List Byte → List Byte)
    (hlen : data.length = s.desc.lenA.toNat) (hholdsA : Holds s s.desc.addrA.toNat data)
    (hfitsA : s.desc.addrA.toNat + data.length ≤ s.cfg.dmemBytes)
    (hroom : s.desc.addrD.toNat + data.length ≤ s.cfg.dmemBytes) :
    cmdStream cipher s = .commit (s.storeOutput (cipher key nonce data)) := by
  rw [hlen] at hfitsA hroom
  obtain ⟨hK, hreadK, hregionK⟩ := Holds.source (r := s.regionK 32) hholdsK hkey hfitsK
  obtain ⟨hN, hreadN, hregionN⟩ := Holds.source (r := s.regionN 8) hholdsN hnonce hfitsN
  obtain ⟨hA, hreadA, hregionA⟩ := Holds.source (r := s.regionA s.desc.lenA.toNat) hholdsA hlen hfitsA
  have hD : s.fits (s.regionD s.desc.lenA.toNat) = true := decide_eq_true hroom
  have hnote : s.noteMem [s.regionK 32, s.regionN 8, s.regionA s.desc.lenA.toNat] = s :=
    s.noteMem_of_written (by simpa using ⟨hregionK, hregionN, hregionA⟩)
  simp only [cmdStream, State.lengthsOk_of_eq hlenK hlenN, hK, hN, hA, hD, hreadK, hreadN, hreadA, hnote, Bool.and_self,
    Bool.not_true, Bool.false_eq_true, if_false]

end

/-- Settles O53: `keystream_getElem?` gives the keystream's bytes, and `wordsOf_blockInput` the words of its inputs. -/
theorem salsaKsStoresTheKeystream : Obligations.SalsaKsStoresTheKeystream := by
  intro s key nonce hlenK hlenN hkey hnonce hholdsK hholdsN hfitsK hfitsN hroom
  obtain ⟨t, hexec, hstored, hlenD, hrest⟩ := exec_of_commit_storeOutput (i := .salsaKs)
    (cmdSalsaKs_eq_commit hlenK hlenN hkey hnonce hholdsK hholdsN hfitsK hfitsN hroom)
  rw [keystream_length] at hlenD hrest
  refine ⟨t, hexec, keystream_length _ _ _, hstored, fun j hj => keystream_getElem? key nonce hj, fun i => ?_, ?_, hrest⟩
  · have hlen := blockInput_length hkey hnonce i
    refine ⟨hlen, ?_⟩
    rw [← wordsOf_eq_map_wordAt 16 _ hlen, wordsOf_blockInput hkey hnonce]
  · simpa using hlenD

/-- Settles O54: a masked byte is `xorBytes_getElem?`, and the mask's bytes are those of `keystream_getElem?`. -/
theorem salsaXorMasksTheData : Obligations.SalsaXorMasksTheData := by
  intro s key nonce data hlenK hlenN hkey hnonce hlen hholdsK hholdsN hholdsA hfitsK hfitsN hfitsA hroom
  obtain ⟨t, hexec, hstored, hlenD, hrest⟩ := exec_of_commit_storeOutput (i := .salsaXor)
    (cmdStream_eq_commit hlenK hlenN hkey hnonce hholdsK hholdsN hfitsK hfitsN streamXor hlen hholdsA hfitsA hroom)
  rw [streamXor_length] at hlenD hrest
  refine ⟨t, _, hexec, streamXor_length _ _ _, hstored, fun j b k => xorBytes_getElem?, fun j b k hb hk => ?_, ?_, hrest⟩
  · have hj : j < data.length := (List.getElem?_eq_some_iff.1 hb).1
    exact xorBytes_getElem? hb ((keystream_getElem? key nonce hj).trans hk)
  · simpa [hlen] using hlenD

end Sys2Proof.Machine
end

section
/-! Laws of the stream and of the OFB mode (46_salsa20.md R561, R563; 47_ofb.md R590, R592): both mask their data with a
string that does not depend on it. -/

namespace Sys2Proof.Machine

open Sys2Proof

/-! ### Masks -/

/-- Masking twice gives the data back, under a mask that is long enough. -/
theorem xorBytes_xorBytes {s m : List Byte} (h : s.length ≤ m.length) : xorBytes (xorBytes s m) m = s := by
  apply List.ext_getElem
  · simpa using h
  · intro i h1 h2
    simp [xorBytes]

/-- Only as many bytes of a mask count as the data has. -/
theorem xorBytes_take (s m : List Byte) : xorBytes s (m.take s.length) = xorBytes s m := by
  induction s generalizing m with
  | nil => rfl
  | cons b s ih =>
    cases m with
    | nil => rfl
    | cons k m => exact congrArg (List.cons (b ^^^ k)) (ih m)

/-- A mask in two parts masks the data in two parts. -/
theorem xorBytes_append (s m m' : List Byte) :
    xorBytes s (m ++ m') = xorBytes (s.take m.length) m ++ xorBytes (s.drop m.length) m' := by
  induction m generalizing s with
  | nil => simp [xorBytes]
  | cons k m ih =>
    cases s with
    | nil => rfl
    | cons b s => exact congrArg (List.cons (b ^^^ k)) (ih s)

/-! ### The stream -/

theorem keystream_block (key nonce : List Byte) {len : Nat} (h : len ≤ 64) :
    keystream key nonce len = (core64 (blockInput key nonce 0)).take len := by
  have hblock : keystream key nonce 64 = core64 (blockInput key nonce 0) := by
    rw [keystream, List.take_of_length_le (by simp [Config.blockBytes])]
    exact List.append_nil _
  rw [← keystream_take key nonce h, hblock]

/-- R563 (a): the keystream depends on the data's length only. -/
theorem streamXor_streamXor (key nonce data : List Byte) :
    streamXor key nonce (streamXor key nonce data) = data := by
  rw [streamXor, streamXor_length, streamXor, xorBytes_xorBytes (by simp)]

/-- StreamXor of zeros is the keystream (R561, R590). -/
theorem streamXor_zeros (key nonce : List Byte) (n : Nat) :
    streamXor key nonce (List.replicate n 0#8) = keystream key nonce n := by
  apply List.ext_getElem
  · simp
  · intro i h1 h2
    simp [streamXor, xorBytes]

/-! ### The OFB mode -/

/-- The mask of `n` blocks of the OFB mode from chaining value `cv` on: each block is Core of the block input with index 0
under the chaining value, whose next value is the first 8 bytes of that block (R590). -/
def ofbMask (key : List Byte) : Nat → List Byte → List Byte
  | 0, _ => []
  | n + 1, cv =>
    let block := core64 (blockInput key (cv.take 8) 0)
    block ++ ofbMask key n (block.take 8)

theorem ofbMask_length (key : List Byte) (n : Nat) (cv : List Byte) : (ofbMask key n cv).length = 64 * n := by
  induction n generalizing cv with
  | zero => rfl
  | succ n ih => simp [ofbMask, ih]; omega

theorem ofbBlocks_nil (key : List Byte) (n : Nat) (cv : List Byte) : ofbBlocks key n cv [] = [] :=
  List.eq_nil_of_length_eq_zero (ofbBlocks_length key n cv [] (Nat.zero_le _))

/-- R590: the OFB mode masks its data with `ofbMask`. The chaining value after a last, shorter block differs from that of
the mask, but masks nothing. -/
theorem ofbBlocks_eq_xorBytes (key : List Byte) (n : Nat) (cv data : List Byte) (h : data.length ≤ 64 * n) :
    ofbBlocks key n cv data = xorBytes data (ofbMask key n cv) := by
  induction n generalizing cv data with
  | zero =>
    obtain rfl := List.eq_nil_of_length_eq_zero (Nat.le_zero.1 h)
    rfl
  | succ n ih =>
    have hmask : streamXor key (cv.take 8) (List.replicate (data.take 64).length 0#8) =
        (core64 (blockInput key (cv.take 8) 0)).take (data.take 64).length := by
      rw [streamXor_zeros, keystream_block _ _ (by simp)]
    rw [ofbBlocks, ofbMask, hmask, xorBytes_take, xorBytes_append, core64_length]
    congr 1
    by_cases hlen : data.length ≤ 64
    · rw [List.drop_of_length_le hlen, ofbBlocks_nil]
      rfl
    · rw [ih _ _ (by simp; omega), List.length_take, Nat.min_eq_left (by omega),
        List.take_of_length_le (core64_length _).le]

theorem ofb_eq_xorBytes (key iv data : List Byte) :
    ofb key iv data = xorBytes data (ofbMask key ((data.length + 63) / 64) iv) :=
  ofbBlocks_eq_xorBytes _ _ _ _ (by omega)

/-- R592 (a): the mask depends on the data's length only. -/
theorem ofb_ofb (key iv data : List Byte) : ofb key iv (ofb key iv data) = data := by
  rw [ofb_eq_xorBytes, ofb_length, ofb_eq_xorBytes, xorBytes_xorBytes (by rw [ofbMask_length]; omega)]

/-- R592 (c): on at most one block the mask is the keystream of the initial value. -/
theorem ofb_eq_streamXor {key iv data : List Byte} (hiv : iv.length = 8) (h : data.length ≤ 64) :
    ofb key iv data = streamXor key iv data := by
  cases data with
  | nil => rfl
  | cons b data =>
    have hblocks : ((b :: data).length + 63) / 64 = 1 := by rw [List.length_cons] at h ⊢; omega
    rw [ofb_eq_xorBytes, hblocks, streamXor, keystream_block _ _ h, xorBytes_take, ofbMask, ofbMask, List.append_nil,
      List.take_of_length_le hiv.le]

/-- Settles O56: a longer keystream begins with the shorter one, and masks that depend on the data's length only. -/
theorem streamAndOfbAreSelfInverse : Obligations.StreamAndOfbAreSelfInverse := by
  intro key iv data m n _ hiv hmn
  exact ⟨(keystream_take key iv hmn).symm, streamXor_streamXor key iv data, ofb_ofb key iv data, ofb_eq_streamXor hiv⟩

end Sys2Proof.Machine
end

section
/-! The interrupt and the two resets (60_exceptions.md R610; 70_reset_and_hazards.md R700 to R703; 10_state.md R109). -/

namespace Sys2Proof.Machine

open Sys2Proof

/-- R109, R701: a CTRL write resets where SRST = 1, and else writes IE alone. -/
theorem hostWrite_ctrl (s : State) (w : Word) :
    hostWrite 32 0x00C#32 w s = if w.getLsbD 1 then s.hardwareReset else { s with ie := w.getLsbD 0 } := by
  rw [hostWrite, reach_pageOffset s.cfg (rfl : pageOffset .ctrl = some _)]

@[simp] theorem State.hardwareReset_irq (s : State) : s.hardwareReset.irq = false := rfl

/-- R101: no operand register counts as written after a reset. -/
@[simp] theorem State.hardwareReset_written (s : State) (r : Reg) : s.hardwareReset.written r = false := by
  simp [State.written, Operand.reset]

/-- Settles O20: each of the three writes clears IE or DONE, the CTRL write also where it resets. -/
theorem interruptIsEnabledCompletion : Obligations.InterruptIsEnabledCompletion := by
  intro s w
  refine ⟨rfl, fun hdone => ?_, fun hie => ?_, fun hidle => ?_⟩
  · simp [hostAccess, hostWrite_status, State.irq, Status.writeOneToClear, hdone]
  · rw [hostAccess, hostWrite_ctrl]
    split
    · exact s.hardwareReset_irq
    · simp only [State.irq, hie, Bool.false_and]
  · simp [hostAccess, hostWrite_cmd, hidle, State.irq]

/-- Settles O21: the table is `hardwareReset`, and the CTRL write is `hostWrite_ctrl`. -/
theorem bothResetsLeaveTheTable : Obligations.BothResetsLeaveTheTable := by
  intro s w
  refine ⟨_, rfl, rfl, rfl, rfl, rfl, rfl, rfl, rfl, s.hardwareReset_written, fun _ => rfl, s.hardwareReset_irq, rfl,
    rfl, fun hreset => ?_, fun hkeep => ?_⟩
  · rw [hostAccess, hostWrite_ctrl, if_pos hreset]
  · rw [hostAccess, hostWrite_ctrl, hkeep, if_neg Bool.false_ne_true]

end Sys2Proof.Machine
end

section
/-! Errors and the absence of stuck states (60_exceptions.md R600, R601, R622). -/

namespace Sys2Proof.Machine

open Sys2Proof

/-- Settles O8: neither an event nor the sequencer stops the machine (`step_has_next_of_admitted`). -/
theorem admittedStepAlwaysHasANextState : Obligations.AdmittedStepAlwaysHasANextState :=
  fun _ hadm => step_has_next_of_admitted hadm

/-- R601: the sequencer ends a held word that is no command from the state it began in. -/
theorem sequencerStep_of_no_command_frame {s : State} {e : DecodeError} (hbusy : s.status.busy = true)
    (hdecode : decode s.cmd = .error e) :
    ∃ t, sequencerStep s = .next t ∧ FailedWith 0x01#8 s t ∧ NothingWritten s t ∧ Quiet s t :=
  ⟨_, sequencerStep_of_no_command hbusy hdecode, ⟨rfl, rfl⟩, finish_nothingWritten s true 0x01#8⟩

/-- Settles O7: with or without an agenda, the step is the sequencer's. -/
theorem wordThatIsNoCommandRaisesIllegalOpcode : Obligations.WordThatIsNoCommandRaisesIllegalOpcode := by
  intro s e rest hadm hbusy hdecode
  constructor
  · intro hnil
    rw [step_of_agenda_nil hadm hnil]
    exact sequencerStep_of_no_command_frame hbusy hdecode
  · intro hseq
    rw [step_of_agenda_cons hadm hseq]
    exact sequencerStep_of_no_command_frame (s := { s with agenda := rest }) hbusy hdecode

/-- Settles O11: a success has no code and a pending search is BUSY, so the command raised, and what raises has only
read its sources and made draws (`commandResult_framed`). -/
theorem errorWritesNoDestination : Obligations.ErrorWritesNoDestination := by
  intro i s t hexec hdone hcode hbusy
  have hframe := commandResult_framed i s
  rw [exec_eq] at hexec
  cases hexec
  cases hresult : commandResult s i with
  | commit u => exact absurd (by rw [hresult]; rfl) hcode
  | raise e u =>
    rw [hresult] at hframe
    exact (OnlyRegisters.of_noted hframe).finish true e.code
  | searching =>
    rw [hresult, State.settle_searching_status, hbusy] at hdone
    cases hdone

end Sys2Proof.Machine
end

section
/-! Which errors a command can raise, and the checks that come before any source is read (60_exceptions.md R602 to R604,
R608). -/

namespace Sys2Proof.Machine

open Sys2Proof

/-! ### The conditions of each code -/

/-- The commands that check the lengths of key and nonce (R603). -/
def checksLengths : Instr → Bool
  | .salsaKs | .salsaXor | .ofbEnc | .ofbDec => true
  | _ => false

/-- The commands of the table of R604. -/
def namesRegion : Instr → Bool
  | .rsaVerify _ _ _ => true
  | i => storesOutput i

/-- What has to hold where command `i` raises a code from `s`: the operand fields are ill-formed (R602), a length is
wrong (R603), the command is of the table of R604. A command never raises ILLEGAL_OPCODE (R601), and of the codes that
depend on operand values nothing is said. -/
def MayRaise (i : Instr) (s : State) : ErrCode → Prop
  | .illegalOpcode => False
  | .illegalOperand => i.wellFormed = false
  | .badLength => checksLengths i = true ∧ s.lengthsOk = false
  | .memRange => namesRegion i = true
  | .operandRange | .noInverse | .degenerate => True

/-- If the result raises a code, the code satisfies `P`. -/
def CmdResult.RaisesOnly (P : ErrCode → Prop) : CmdResult → Prop
  | .raise e _ => P e
  | _ => True

section
variable {P : ErrCode → Prop}

@[simp] theorem CmdResult.raisesOnly_commit (t : State) : (CmdResult.commit t).RaisesOnly P := trivial

@[simp] theorem CmdResult.raisesOnly_raise (e : ErrCode) (t : State) : (CmdResult.raise e t).RaisesOnly P ↔ P e :=
  Iff.rfl

/-- A check adds its own code to those that what comes after it raises (R608). -/
@[simp] theorem CmdResult.raisesOnly_check (c : Prop) [Decidable c] (e : ErrCode) (t : State) (r : CmdResult) :
    (if c then .raise e t else r).RaisesOnly P ↔ (c → P e) ∧ (¬ c → r.RaisesOnly P) := by
  by_cases h : c <;> simp [h]

theorem writeResult_raisesOnly (h : P .noInverse) (j : Pair) (s : State) (r : Option Point) :
    (writeResult j s r).RaisesOnly P := by
  cases r with
  | none => exact h
  | some p => trivial

theorem egEncResult_raisesOnly (h : P .degenerate) (rd rc : Reg) (m : Nat) (c1 : Point) (s : State) (secret : Point) :
    (egEncResult rd rc m c1 s secret).RaisesOnly P := by
  cases secret <;> simp [egEncResult, h]

theorem egDecResult_raisesOnly (hO : P .degenerate) (hx : P .noInverse) (rd : Reg) (c2 : Nat) (s : State)
    (secret : Point) : (egDecResult rd c2 s secret).RaisesOnly P := by
  cases secret with
  | identity => exact hO
  | affine sx sy => simp only [egDecResult]; split <;> simp [hx]

theorem cmdStream_raisesOnly {s : State} (hlen : s.lengthsOk = false → P .badLength) (hmem : P .memRange)
    (cipher : List Byte → List Byte → List Byte → List Byte) : (cmdStream cipher s).RaisesOnly P := by
  simp +contextual [cmdStream, hlen, hmem]

/-- RsaKeygen fails with DEGENERATE or NO_INVERSE (R517). -/
theorem keyOf_failed {p q : Nat} {e : ErrCode} (h : keyOf p q = .failed e) : e = .degenerate ∨ e = .noInverse := by
  unfold keyOf at h
  split at h
  · exact .inl (KeyResult.failed.inj h).symm
  · split at h
    · exact .inr (KeyResult.failed.inj h).symm
    · cases h

theorem rsaKeygen_failed {bits fuel : Nat} {g g' : RandomSource} {e : ErrCode}
    (h : rsaKeygen bits fuel g = some (.failed e, g')) : e = .degenerate ∨ e = .noInverse := by
  unfold rsaKeygen at h
  split at h
  · cases h
  · split at h
    · cases h
    · exact keyOf_failed (Prod.mk.inj (Option.some.inj h)).1

end

/-- Every command raises a code only where the code's conditions hold (R601 to R604). -/
theorem commandResult_raisesOnly (i : Instr) (s : State) : (commandResult s i).RaisesOnly (MayRaise i s) := by
  cases i with
  | nop | rsaPrimeTest rd ra aux => trivial
  | montMul rd ra rb rc => simp [commandResult, cmdMontMul, MayRaise]
  | modMul rd ra rb rc => simp [commandResult, cmdModMul, MayRaise]
  | modExp rd ra rb rc => simp [commandResult, cmdModExp, MayRaise]
  | modInv rd ra rc =>
    simp only [commandResult, cmdModInv, CmdResult.raisesOnly_check]
    refine ⟨fun _ => trivial, fun _ => ?_⟩
    split <;> trivial
  | ecAdd rd ra rb =>
    simp only [commandResult, cmdEcAdd, CmdResult.raisesOnly_check]
    exact ⟨Bool.eq_false_of_not_eq_true', fun _ => ⟨fun _ => trivial, fun _ => writeResult_raisesOnly trivial _ _ _⟩⟩
  | ecDbl rd ra =>
    simp only [commandResult, cmdEcDbl, CmdResult.raisesOnly_check]
    exact ⟨Bool.eq_false_of_not_eq_true', fun _ => ⟨fun _ => trivial, fun _ => writeResult_raisesOnly trivial _ _ _⟩⟩
  | ecSmul rd ra rb =>
    simp only [commandResult, cmdEcSmul, CmdResult.raisesOnly_check]
    exact ⟨Bool.eq_false_of_not_eq_true',
      fun _ => ⟨fun _ => trivial, fun _ => ⟨fun _ => trivial, fun _ => writeResult_raisesOnly trivial _ _ _⟩⟩⟩
  | ecOnCurve rd ra =>
    simp only [commandResult, cmdEcOnCurve, CmdResult.raisesOnly_check]
    exact ⟨Bool.eq_false_of_not_eq_true', fun _ => ⟨fun _ => trivial, fun _ => trivial⟩⟩
  | egKeygen rd rb =>
    simp only [commandResult, cmdEgKeygen, CmdResult.raisesOnly_check]
    refine ⟨fun hodd => ?_, fun _ => ⟨fun hoverlap => ?_, fun _ => ?_⟩⟩
    · exact Bool.and_eq_false_iff.2 (.inl (Bool.eq_false_of_not_eq_true' hodd))
    · exact Bool.and_eq_false_iff.2 (.inr (congrArg _ hoverlap))
    · split <;> trivial
  | egEnc rd ra rb rc =>
    simp only [commandResult, cmdEgEnc, CmdResult.raisesOnly_check]
    refine ⟨fun hodd => ?_, fun _ => ⟨fun hoverlap => ?_,
      fun _ => ⟨fun _ => trivial, fun _ => ⟨fun _ => trivial, fun _ => ?_⟩⟩⟩⟩
    · exact Bool.and_eq_false_iff.2 (.inl (Bool.eq_false_of_not_eq_true' hodd))
    · exact Bool.and_eq_false_iff.2 (.inr (congrArg _ hoverlap))
    · split
      · trivial
      · split
        · trivial
        · exact egEncResult_raisesOnly trivial _ _ _ _ _ _
  | egDec rd ra rb rc =>
    simp only [commandResult, cmdEgDec, CmdResult.raisesOnly_check]
    refine ⟨Bool.eq_false_of_not_eq_true', fun _ => ⟨fun _ => trivial, fun _ => ⟨fun _ => trivial, fun _ => ?_⟩⟩⟩
    · split
      · trivial
      · exact egDecResult_raisesOnly trivial trivial _ _ _ _
  | rsaGenPrime rd ra =>
    simp only [commandResult, cmdRsaGenPrime, CmdResult.raisesOnly_check]
    refine ⟨fun _ => trivial, fun _ => ?_⟩
    split <;> trivial
  | rsaKeygen rd ra rb rc =>
    simp only [commandResult, cmdRsaKeygen, CmdResult.raisesOnly_check]
    refine ⟨fun hsame => ?_, fun _ => ⟨fun _ => trivial, fun _ => ?_⟩⟩
    · exact Bool.eq_false_of_not_eq_true fun hwf => rsaKeygen_apart hwf hsame
    · split
      · trivial
      · next hfailed => rcases rsaKeygen_failed hfailed with rfl | rfl <;> trivial
      · trivial
  | rsaSign ra rb => simp [commandResult, cmdRsaSign, MayRaise, namesRegion, storesOutput]
  | rsaVerify rd ra rb => simp [commandResult, cmdRsaVerify, MayRaise, namesRegion]
  | salsaQr => simp [commandResult, cmdSalsaQr, MayRaise, namesRegion, storesOutput]
  | salsaBlock => simp [commandResult, cmdSalsaBlock, MayRaise, namesRegion, storesOutput]
  | salsaKs => simp [commandResult, cmdSalsaKs, MayRaise, checksLengths, namesRegion, storesOutput]
  | salsaXor | ofbEnc | ofbDec => exact cmdStream_raisesOnly (And.intro rfl) (Eq.refl true) _

theorem ErrCode.code_injective : Function.Injective ErrCode.code := by
  intro e e' h
  cases e <;> cases e' <;> simp [ErrCode.code] at h ⊢

/-- A code whose conditions do not hold is not in ERRCODE after the command's step, where ERRCODE was 0 before it, as it
is while BUSY (R108). -/
theorem errcode_ne_of_not_mayRaise {i : Instr} {s t : State} {e : ErrCode} (hclear : s.errcode = 0#8)
    (hno : ¬ MayRaise i s e) (hexec : exec i s = .next t) : t.errcode ≠ e.code := by
  have hraises := commandResult_raisesOnly i s
  rw [exec_eq] at hexec
  cases hexec
  cases hresult : commandResult s i with
  | commit u => exact e.code_ne_zero.symm
  | raise e' u =>
    rw [hresult] at hraises
    intro hcode
    obtain rfl := ErrCode.code_injective hcode
    exact hno hraises
  | searching => exact fun h => e.code_ne_zero (h.symm.trans hclear)

/-! ### Operand fields -/

/-- R602: the fields are checked before anything is read or drawn. -/
theorem commandResult_of_not_wellFormed {i : Instr} (s : State) (h : i.wellFormed = false) :
    commandResult s i = .raise .illegalOperand s := by
  cases i with
  | ecAdd rd ra rb | ecDbl rd ra | ecSmul rd ra rb | ecOnCurve rd ra | egDec rd ra rb rc =>
    simp only [Instr.wellFormed] at h
    simp only [commandResult, cmdEcAdd, cmdEcDbl, cmdEcSmul, cmdEcOnCurve, cmdEgDec, h, Bool.not_false, if_true]
  | egKeygen rd rb =>
    by_cases heven : Reg.isEven rb = true
    · simp only [Instr.wellFormed, heven, Bool.true_and, Bool.not_eq_false'] at h
      simp only [commandResult, cmdEgKeygen, heven, h, Bool.not_true, Bool.false_eq_true, if_false, if_true]
    · exact if_pos (congrArg not (Bool.eq_false_of_not_eq_true heven))
  | egEnc rd ra rb rc =>
    by_cases heven : (Reg.isEven rd && Reg.isEven ra) = true
    · simp only [Instr.wellFormed, heven, Bool.true_and, Bool.not_eq_false'] at h
      simp only [commandResult, cmdEgEnc, heven, h, Bool.not_true, Bool.false_eq_true, if_false, if_true]
    · exact if_pos (congrArg not (Bool.eq_false_of_not_eq_true heven))
  | rsaKeygen rd ra rb rc =>
    simp only [Instr.wellFormed, Bool.and_eq_false_iff, decide_eq_false_iff_not, not_not, or_assoc] at h
    exact if_pos h
  | _ => cases h

/-- Settles O12: `commandResult_of_not_wellFormed` one way, `MayRaise` the other. -/
theorem illegalOperandIsRaisedByIllFormedCommands : Obligations.IllegalOperandIsRaisedByIllFormedCommands := by
  intro i s hclear
  refine ⟨fun hill => exec_of_raise (commandResult_of_not_wellFormed s hill), fun hwf t hexec => ?_⟩
  refine errcode_ne_of_not_mayRaise (e := .illegalOperand) hclear (fun hill : i.wellFormed = false => ?_) hexec
  rw [hwf] at hill
  cases hill

/-! ### Key and nonce lengths -/

theorem checksLengths_iff {i : Instr} :
    checksLengths i = true ↔ i = .salsaKs ∨ i = .salsaXor ∨ i = .ofbEnc ∨ i = .ofbDec := by
  cases i <;> simp [checksLengths]

theorem State.lengthsOk_iff {s : State} : s.lengthsOk = true ↔ s.desc.lenK = 32#32 ∧ s.desc.lenN = 8#32 := by
  simp only [State.lengthsOk, Bool.and_eq_true, decide_eq_true_eq, ← BitVec.toNat_inj]
  rfl

/-- R603: the lengths are checked before any region. -/
theorem commandResult_of_wrong_length {i : Instr} {s : State} (hi : checksLengths i = true) (h : s.lengthsOk = false) :
    commandResult s i = .raise .badLength s := by
  obtain rfl | rfl | rfl | rfl := checksLengths_iff.1 hi <;>
    simp only [commandResult, cmdSalsaKs, cmdStream, h, Bool.not_false, if_true]

/-- Settles O59: `commandResult_of_wrong_length` one way, `MayRaise` the other. -/
theorem wrongKeyOrNonceLengthRaisesBadLength : Obligations.WrongKeyOrNonceLengthRaisesBadLength := by
  intro i s
  constructor
  · intro hi hlen
    have hwrong : s.lengthsOk = false := by
      rw [← Bool.not_eq_true, State.lengthsOk_iff]
      tauto
    exact exec_of_raise (commandResult_of_wrong_length (checksLengths_iff.2 hi) hwrong)
  · intro hclear hok t hexec
    refine errcode_ne_of_not_mayRaise (e := .badLength) hclear (fun ⟨hi, hwrong⟩ => ?_) hexec
    rw [checksLengths_iff] at hi
    rw [← Bool.not_eq_true, State.lengthsOk_iff] at hwrong
    tauto

/-! ### Regions -/

/-- R206: a region beyond DMEM_BYTES does not fit. -/
theorem State.fits_eq_false {s : State} {r : Region} (h : s.cfg.dmemBytes < r.addr + r.len) : s.fits r = false :=
  decide_eq_false h.not_ge

section
variable {rd ra rb : Reg} {s : State}

theorem cmdRsaSign_eq_raise_memRange (hw : Written [ra, rb] s)
    (h : s.fits (s.regionA s.desc.lenA.toNat) = false ∨ s.fits (s.regionD (nbytes (s.reg ra))) = false) :
    cmdRsaSign ra rb s = .raise .memRange s := by
  rcases h with h | h <;> simp [cmdRsaSign, State.noteRegs_of_written s hw, h]

theorem cmdRsaVerify_eq_raise_memRange (hw : Written [ra, rb] s)
    (h : s.fits (s.regionA s.desc.lenA.toNat) = false ∨ s.fits (s.regionB s.desc.lenB.toNat) = false) :
    cmdRsaVerify rd ra rb s = .raise .memRange s := by
  rcases h with h | h <;> simp [cmdRsaVerify, State.noteRegs_of_written s hw, h]

theorem cmdSalsaQr_eq_raise_memRange (h : s.fits (s.regionA 16) = false ∨ s.fits (s.regionD 16) = false) :
    cmdSalsaQr s = .raise .memRange s := by
  rcases h with h | h <;> simp [cmdSalsaQr, h]

theorem cmdSalsaBlock_eq_raise_memRange (h : s.fits (s.regionA 64) = false ∨ s.fits (s.regionD 64) = false) :
    cmdSalsaBlock s = .raise .memRange s := by
  rcases h with h | h <;> simp [cmdSalsaBlock, h]

theorem cmdSalsaKs_eq_raise_memRange (hlen : s.lengthsOk = true) (h : s.fits (s.regionK 32) = false ∨
    s.fits (s.regionN 8) = false ∨ s.fits (s.regionD s.desc.lenA.toNat) = false) :
    cmdSalsaKs s = .raise .memRange s := by
  rcases h with h | h | h <;> simp [cmdSalsaKs, hlen, h]

theorem cmdStream_eq_raise_memRange (cipher : List Byte → List Byte → List Byte → List Byte) (hlen : s.lengthsOk = true)
    (h : s.fits (s.regionK 32) = false ∨ s.fits (s.regionN 8) = false ∨ s.fits (s.regionD s.desc.lenA.toNat) = false ∨
      s.fits (s.regionA s.desc.lenA.toNat) = false) : cmdStream cipher s = .raise .memRange s := by
  rcases h with h | h | h | h <;> simp [cmdStream, hlen, h]

/-- R604 for the four stream commands; SALSA_KS does not name (ADDR_A, LEN_A). -/
theorem commandResult_of_stream_region {i : Instr} (hi : checksLengths i = true) (hlen : s.lengthsOk = true)
    (h : s.fits (s.regionK 32) = false ∨ s.fits (s.regionN 8) = false ∨ s.fits (s.regionD s.desc.lenA.toNat) = false ∨
      (i ≠ .salsaKs ∧ s.fits (s.regionA s.desc.lenA.toNat) = false)) :
    commandResult s i = .raise .memRange s := by
  obtain rfl | rfl | rfl | rfl := checksLengths_iff.1 hi
  · exact cmdSalsaKs_eq_raise_memRange hlen (by simpa using h)
  all_goals exact cmdStream_eq_raise_memRange _ hlen (by simpa using h)

end

/-- Settles O60: each row's command ends at its region check, and a command of no row is not in `namesRegion`. -/
theorem regionOutsideDmemRaisesMemRange : Obligations.RegionOutsideDmemRaisesMemRange := by
  intro i s rd ra rb
  constructor
  · intro hrow
    refine exec_of_raise (e := .memRange) ?_
    obtain ⟨rfl, hw, h⟩ | ⟨rfl, hw, h⟩ | ⟨rfl, h⟩ | ⟨rfl, h⟩ | ⟨hlenK, hlenN, hi, h⟩ := hrow
    · exact cmdRsaSign_eq_raise_memRange hw (h.imp State.fits_eq_false State.fits_eq_false)
    · exact cmdRsaVerify_eq_raise_memRange hw (h.imp State.fits_eq_false State.fits_eq_false)
    · exact cmdSalsaQr_eq_raise_memRange (h.imp State.fits_eq_false State.fits_eq_false)
    · exact cmdSalsaBlock_eq_raise_memRange (h.imp State.fits_eq_false State.fits_eq_false)
    · exact commandResult_of_stream_region (checksLengths_iff.2 hi) (State.lengthsOk_of_eq hlenK hlenN)
        (h.imp State.fits_eq_false (.imp State.fits_eq_false
          (.imp State.fits_eq_false fun ⟨hne, hA⟩ => ⟨hne, State.fits_eq_false hA⟩)))
  · intro hclear hsign hverify hqr hblock hks hxor henc hdec t hexec
    refine errcode_ne_of_not_mayRaise (e := .memRange) hclear (fun hi : namesRegion i = true => ?_) hexec
    cases i with
    | rsaSign ra rb => exact hsign ra rb rfl
    | rsaVerify rd ra rb => exact hverify rd ra rb rfl
    | salsaQr => exact hqr rfl
    | salsaBlock => exact hblock rfl
    | salsaKs => exact hks rfl
    | salsaXor => exact hxor rfl
    | ofbEnc => exact henc rfl
    | ofbDec => exact hdec rfl
    | _ => cases hi

end Sys2Proof.Machine
end

section
/-! OPERAND_RANGE (60_exceptions.md R605, R608): the commands whose operand values are outside their domain, past the
checks that come before. -/

namespace Sys2Proof.Machine

open Sys2Proof

section
variable {rd ra rb rc : Reg} {s : State}

/-! ### Moduli -/

theorem cmdMontMul_eq_raise_range (hw : Written [ra, rb, rc] s)
    (h : s.reg rc % 2 = 0 ∨ s.reg rc ≤ s.reg ra ∨ s.reg rc ≤ s.reg rb) :
    cmdMontMul rd ra rb rc s = .raise .operandRange s := by
  simp only [cmdMontMul, State.noteRegs_of_written s hw]
  split
  · rfl
  · next hodd => exact if_pos (h.resolve_left hodd)

theorem cmdModMul_eq_raise_range (hw : Written [ra, rb, rc] s) (hm : s.reg rc = 0) :
    cmdModMul rd ra rb rc s = .raise .operandRange s := by
  simp only [cmdModMul, State.noteRegs_of_written s hw, if_pos hm]

theorem cmdModExp_eq_raise_range (hw : Written [ra, rb, rc] s) (hm : s.reg rc = 0) :
    cmdModExp rd ra rb rc s = .raise .operandRange s := by
  simp only [cmdModExp, State.noteRegs_of_written s hw, if_pos hm]

theorem cmdModInv_eq_raise_range (hw : Written [ra, rc] s) (hm : s.reg rc = 0) :
    cmdModInv rd ra rc s = .raise .operandRange s := by
  simp only [cmdModInv, State.noteRegs_of_written s hw, if_pos hm]

/-! ### Points and scalars -/

theorem cmdEcOnCurve_eq_raise_range (hwf : (Instr.ecOnCurve rd ra).wellFormed = true) (hA : PointReady (pairOf ra) s)
    (h : (s.readPoint (pairOf ra)).inRange s.cfg.curve = false) :
    cmdEcOnCurve rd ra s = .raise .operandRange s := by
  simp only [Instr.wellFormed] at hwf
  simp [cmdEcOnCurve, hwf, State.notePoint_of_written s hA, h]

theorem cmdEcAdd_eq_raise_range (hwf : (Instr.ecAdd rd ra rb).wellFormed = true) (hA : PointReady (pairOf ra) s)
    (hB : PointReady (pairOf rb) s) (h : (s.readPoint (pairOf ra)).inRange s.cfg.curve = false ∨
      (s.readPoint (pairOf rb)).inRange s.cfg.curve = false) :
    cmdEcAdd rd ra rb s = .raise .operandRange s := by
  simp only [Instr.wellFormed] at hwf
  simp only [cmdEcAdd, hwf, State.notePoint_of_written s hA, State.notePoint_of_written s hB]
  rcases h with h | h <;> simp [h]

theorem cmdEcDbl_eq_raise_range (hwf : (Instr.ecDbl rd ra).wellFormed = true) (hA : PointReady (pairOf ra) s)
    (h : (s.readPoint (pairOf ra)).inRange s.cfg.curve = false) : cmdEcDbl rd ra s = .raise .operandRange s := by
  simp only [Instr.wellFormed] at hwf
  simp [cmdEcDbl, hwf, State.notePoint_of_written s hA, h]

theorem cmdEcSmul_eq_raise_range (hwf : (Instr.ecSmul rd ra rb).wellFormed = true) (hk : Written [ra] s)
    (hB : PointReady (pairOf rb) s)
    (h : (s.readPoint (pairOf rb)).inRange s.cfg.curve = false ∨ 2 ^ 256 ≤ s.reg ra) :
    cmdEcSmul rd ra rb s = .raise .operandRange s := by
  simp only [Instr.wellFormed] at hwf
  simp only [cmdEcSmul, hwf, State.noteRegs_of_written s hk, State.notePoint_of_written s hB, Bool.not_true,
    Bool.false_eq_true, if_false]
  split
  · rfl
  · next hrange => exact if_pos (h.resolve_left fun hout => hrange (congrArg not hout))

/-! ### EC-ElGamal -/

/-- R608: the point is checked before the plaintext (`cmdEgEnc_eq_raise_range`). -/
theorem cmdEgEnc_eq_raise_operandRange (hwf : (Instr.egEnc rd ra rb rc).wellFormed = true)
    (hQ : PointReady (pairOf ra) s) (hm : Written [rb] s)
    (h : (s.readPoint (pairOf ra)).inRange s.cfg.curve = false ∨ s.cfg.curve.p ≤ s.reg rb) :
    cmdEgEnc rd ra rb rc s = .raise .operandRange s := by
  cases hrange : (s.readPoint (pairOf ra)).inRange s.cfg.curve with
  | true => exact cmdEgEnc_eq_raise_range hwf hQ hm hrange (h.resolve_left (by simp [hrange]))
  | false =>
    simp only [Instr.wellFormed, Bool.and_eq_true, Bool.not_eq_true'] at hwf
    obtain ⟨⟨hd, ha⟩, hapart⟩ := hwf
    simp only [cmdEgEnc, hd, ha, hapart, State.notePoint_of_written s hQ, State.noteRegs_of_written s hm, hrange,
      Bool.and_self, Bool.not_true, Bool.not_false, Bool.false_eq_true, if_false, if_true]

theorem cmdEgDec_eq_raise_operandRange (hwf : (Instr.egDec rd ra rb rc).wellFormed = true)
    (hC : PointReady (pairOf rb) s) (hw : Written [ra, rc] s)
    (h : (s.readPoint (pairOf rb)).inRange s.cfg.curve = false ∨ 2 ^ 256 ≤ s.reg ra ∨ s.cfg.curve.p ≤ s.reg rc) :
    cmdEgDec rd ra rb rc s = .raise .operandRange s := by
  have hnote : ((s.noteRegs [ra]).notePoint (pairOf rb)).noteRegs [rc] = s := by
    rw [State.noteRegs_of_written s (rs := [ra]) (by simp [hw ra]), State.notePoint_of_written s hC,
      State.noteRegs_of_written s (rs := [rc]) (by simp [hw rc])]
  have heven : Reg.isEven rb = true := hwf
  simp only [cmdEgDec, heven, hnote, Bool.not_true, Bool.false_eq_true, if_false]
  split
  · rfl
  · next hrange => exact if_pos (h.resolve_left fun hout => hrange (congrArg not hout))

/-! ### RSA -/

theorem cmdRsaGenPrime_eq_raise_range (hw : Written [ra] s) (h : s.reg ra < 2 ∨ s.cfg.opw < s.reg ra) :
    cmdRsaGenPrime rd ra s = .raise .operandRange s := by
  simp only [cmdRsaGenPrime, State.noteRegs_of_written s hw]
  exact if_pos h

theorem cmdRsaKeygen_eq_raise_range (hwf : (Instr.rsaKeygen rd ra rb rc).wellFormed = true) (hw : Written [ra] s)
    (h : s.reg ra < 4 ∨ s.cfg.opw < s.reg ra) : cmdRsaKeygen rd ra rb rc s = .raise .operandRange s := by
  simp only [cmdRsaKeygen, if_neg (rsaKeygen_apart hwf), State.noteRegs_of_written s hw]
  exact if_pos h

/-- R608: the modulus 0 of RSA_SIGN is found after the hash has been read. Its signature region is empty (R206). -/
theorem cmdRsaSign_eq_raise_range {hash : List Byte} (hw : Written [ra, rb] s) (hn : s.reg ra = 0)
    (hlen : hash.length = s.desc.lenA.toNat) (hholds : Holds s s.desc.addrA.toNat hash)
    (hfits : s.desc.addrA.toNat + hash.length ≤ s.cfg.dmemBytes) (hroom : s.desc.addrD.toNat ≤ s.cfg.dmemBytes) :
    cmdRsaSign ra rb s = .raise .operandRange s := by
  rw [hlen] at hfits
  obtain ⟨hA, -, hregion⟩ := Holds.source (r := s.regionA s.desc.lenA.toNat) hholds hlen hfits
  have hD : s.fits (s.regionD (nbytes (s.reg ra))) = true := by rw [hn]; exact decide_eq_true hroom
  have hnote : s.noteMem [s.regionA s.desc.lenA.toNat] = s := s.noteMem_of_written (by simpa using hregion)
  simp only [cmdRsaSign, State.noteRegs_of_written s hw, hA, hD, hnote, if_pos hn, Bool.and_self, Bool.not_true,
    Bool.false_eq_true, if_false]

theorem cmdRsaVerify_eq_raise_range {hash sig : List Byte} (hw : Written [ra, rb] s) (hn : s.reg ra = 0)
    (hlen : hash.length = s.desc.lenA.toNat) (hholds : Holds s s.desc.addrA.toNat hash)
    (hfits : s.desc.addrA.toNat + hash.length ≤ s.cfg.dmemBytes)
    (hlen' : sig.length = s.desc.lenB.toNat) (hholds' : Holds s s.desc.addrB.toNat sig)
    (hfits' : s.desc.addrB.toNat + sig.length ≤ s.cfg.dmemBytes) :
    cmdRsaVerify rd ra rb s = .raise .operandRange s := by
  rw [hlen] at hfits
  rw [hlen'] at hfits'
  obtain ⟨hA, -, hregion⟩ := Holds.source (r := s.regionA s.desc.lenA.toNat) hholds hlen hfits
  obtain ⟨hB, -, hregion'⟩ := Holds.source (r := s.regionB s.desc.lenB.toNat) hholds' hlen' hfits'
  have hnote : s.noteMem [s.regionA s.desc.lenA.toNat, s.regionB s.desc.lenB.toNat] = s :=
    s.noteMem_of_written (by simpa using ⟨hregion, hregion'⟩)
  simp only [cmdRsaVerify, State.noteRegs_of_written s hw, hA, hB, hnote, if_pos hn, Bool.and_self, Bool.not_true,
    Bool.false_eq_true, if_false]

end

/-- Settles O58: each row's command raises from the state it began in, by the lemma of its command. -/
theorem operandRangeTable : Obligations.OperandRangeTable := by
  intro s
  refine ⟨fun rd ra rb rc hw h => ?_, fun i rd ra rb rc hw hm hi => ?_, fun i rd ra rb hwf hrow => ?_,
    fun rd ra rb rc hwf hQ hm h => ?_, fun rd ra rb rc hwf hC hw h => ?_, fun i rd ra rb rc hwf hw hrow => ?_,
    fun i rd ra rb hash sig hw hn hlen hholds hfits hrow => ?_⟩ <;> refine exec_of_raise (e := .operandRange) ?_
  · exact cmdMontMul_eq_raise_range hw h
  · obtain rfl | rfl | rfl := hi
    · exact cmdModMul_eq_raise_range hw hm
    · exact cmdModExp_eq_raise_range hw hm
    · have hw' : Written [ra, rc] s := fun r hr => hw r (by simp at hr ⊢; tauto)
      exact cmdModInv_eq_raise_range hw' hm
  · obtain ⟨rfl, hA, hB, h⟩ | ⟨rfl | rfl, hA, h⟩ | ⟨rfl, hk, hB, h⟩ := hrow
    · exact cmdEcAdd_eq_raise_range hwf hA hB h
    · exact cmdEcDbl_eq_raise_range hwf hA h
    · exact cmdEcOnCurve_eq_raise_range hwf hA h
    · exact cmdEcSmul_eq_raise_range hwf hk hB h
  · exact cmdEgEnc_eq_raise_operandRange hwf hQ hm h
  · exact cmdEgDec_eq_raise_operandRange hwf hC hw h
  · obtain ⟨rfl, h⟩ | ⟨rfl, h⟩ := hrow
    · exact cmdRsaGenPrime_eq_raise_range hw h
    · exact cmdRsaKeygen_eq_raise_range hwf hw h
  · obtain ⟨rfl, hroom⟩ | ⟨rfl, hlen', hholds', hfits'⟩ := hrow
    · exact cmdRsaSign_eq_raise_range hw hn hlen hholds hfits hroom
    · exact cmdRsaVerify_eq_raise_range hw hn hlen hholds hfits hlen' hholds' hfits'

end Sys2Proof.Machine
end

section
/-! UNWRITTEN_READ (60_exceptions.md R609; 10_state.md R101; 20_memory.md R203 to R205): a command that gets as far as
reading a source not written ends with the record made, whatever it does after that read. -/

namespace Sys2Proof.Machine

open Sys2Proof

/-! ### What reading an unwritten source leaves behind -/

theorem Noted.written_eq {s u : State} (h : Noted s u) (r : Reg) : u.written r = s.written r := by
  rw [State.written, h.x, State.written]

/-- Reading sources makes no pair ready. -/
theorem Noted.pointReady_iff {s u : State} (h : Noted s u) (j : Pair) : PointReady j u ↔ PointReady j s := by
  rw [PointReady, PointReady, h.written_eq, h.written_eq, State.isIdentity, h.tag, State.isIdentity]

/-- A pair that is not ready leaves UNWRITTEN_READ recorded when read as a point (R103, R609). -/
theorem State.notePoint_of_not_ready (s : State) {j : Pair} (h : ¬ PointReady j s) :
    (s.notePoint j).unwrittenRead = true := by
  obtain ⟨hfinite, hcoords⟩ := not_or.1 h
  rw [State.notePoint, if_neg hfinite]
  by_cases hx : s.written (pairX j) = true
  · exact s.noteRegs_of_unwritten (by simp) (Bool.eq_false_of_not_eq_true fun hy => hcoords ⟨hx, hy⟩)
  · exact s.noteRegs_of_unwritten (by simp) (Bool.eq_false_of_not_eq_true hx)

/-- One unwritten byte of a region leaves UNWRITTEN_READ recorded when the region is read (R205, R609). -/
theorem State.noteMem_of_unwritten_byte (s : State) {rs : List Region} {r : Region} {k : Nat} (hr : r ∈ rs)
    (hk : k < r.len) (h : s.dmem.read (r.addr + k) = none) : (s.noteMem rs).unwrittenRead = true := by
  refine s.noteMem_of_unwritten hr ?_
  rw [State.regionWritten, List.all_eq_false]
  exact ⟨k, List.mem_range.2 hk, by simp [h]⟩

/-! ### Results that carry the record -/

/-- If the result ends the command, UNWRITTEN_READ is recorded in the state it ends in. -/
def CmdResult.Records : CmdResult → Prop
  | .commit t => t.unwrittenRead = true
  | .raise _ t => t.unwrittenRead = true
  | .searching => True

theorem CmdResult.records_storeOutput {t : State} (h : t.unwrittenRead = true) (out : List Byte) :
    (CmdResult.commit (t.storeOutput out)).Records := h

/-- A check that raises from a state with the record keeps it, so that only what comes after the check matters. -/
theorem CmdResult.records_check {c : Prop} [Decidable c] {e : ErrCode} {t : State} {r : CmdResult}
    (ht : t.unwrittenRead = true) (hr : r.Records) : (if c then .raise e t else r).Records := by
  split
  · exact ht
  · exact hr

/-- A check that passes leaves what comes after it. -/
theorem CmdResult.records_passed {b : Bool} {e : ErrCode} {t : State} {r : CmdResult} (hb : b = true) (hr : r.Records) :
    (if !b then .raise e t else r).Records := by
  simpa only [hb, Bool.not_true, Bool.false_eq_true, if_false] using hr

/-- A command that ends with the record leaves it in the state its step leads to. -/
theorem exec_records {i : Instr} {s t : State} (hexec : exec i s = .next t) (hends : (commandResult s i).ends = true)
    (h : (commandResult s i).Records) : t.unwrittenRead = true := by
  rw [exec_eq] at hexec
  cases hexec
  cases hresult : commandResult s i with
  | commit u => rw [hresult] at h; exact h
  | raise e u => rw [hresult] at h; exact h
  | searching => rw [hresult] at hends; cases hends

/-- A command that has left phase BUSY has ended (R401, R621). -/
theorem ends_of_completed {i : Instr} {s t : State} (hbusy : s.status.busy = true) (hexec : exec i s = .next t)
    (hdone : t.status.busy = false) : (commandResult s i).ends = true := by
  rw [exec_eq] at hexec
  cases hexec
  cases hresult : commandResult s i with
  | commit u => rfl
  | raise e u => rfl
  | searching =>
    rw [hresult, State.settle_searching_status, hbusy] at hdone
    cases hdone

/-! ### Register and point sources -/

section
variable {s : State} (rd ra rb rc : Reg)

theorem cmdMontMul_records (h : (s.noteRegs [ra, rb, rc]).unwrittenRead = true) :
    (cmdMontMul rd ra rb rc s).Records :=
  CmdResult.records_check h (CmdResult.records_check h h)

theorem cmdModMul_records (h : (s.noteRegs [ra, rb, rc]).unwrittenRead = true) : (cmdModMul rd ra rb rc s).Records :=
  CmdResult.records_check h h

theorem cmdModExp_records (h : (s.noteRegs [ra, rb, rc]).unwrittenRead = true) : (cmdModExp rd ra rb rc s).Records :=
  CmdResult.records_check h h

theorem cmdModInv_records (h : (s.noteRegs [ra, rc]).unwrittenRead = true) : (cmdModInv rd ra rc s).Records := by
  refine CmdResult.records_check h ?_
  split <;> exact h

theorem writeResult_records (h : s.unwrittenRead = true) (j : Pair) (r : Option Point) :
    (writeResult j s r).Records := by
  cases r with
  | none => exact h
  | some p => exact (State.writePoint_unwrittenRead s j p).trans h

theorem cmdEcOnCurve_records (hwf : (Instr.ecOnCurve rd ra).wellFormed = true)
    (h : (s.notePoint (pairOf ra)).unwrittenRead = true) : (cmdEcOnCurve rd ra s).Records :=
  CmdResult.records_passed hwf (CmdResult.records_check h h)

theorem cmdEcAdd_records (hwf : (Instr.ecAdd rd ra rb).wellFormed = true)
    (h : ((s.notePoint (pairOf ra)).notePoint (pairOf rb)).unwrittenRead = true) : (cmdEcAdd rd ra rb s).Records :=
  CmdResult.records_passed hwf (CmdResult.records_check h (writeResult_records h _ _))

theorem cmdEcDbl_records (hwf : (Instr.ecDbl rd ra).wellFormed = true)
    (h : (s.notePoint (pairOf ra)).unwrittenRead = true) : (cmdEcDbl rd ra s).Records :=
  CmdResult.records_passed hwf (CmdResult.records_check h (writeResult_records h _ _))

theorem cmdEcSmul_records (hwf : (Instr.ecSmul rd ra rb).wellFormed = true)
    (h : ((s.noteRegs [ra]).notePoint (pairOf rb)).unwrittenRead = true) : (cmdEcSmul rd ra rb s).Records :=
  CmdResult.records_passed hwf (CmdResult.records_check h (CmdResult.records_check h (writeResult_records h _ _)))

theorem egEncResult_records (h : s.unwrittenRead = true) (m : Nat) (c1 secret : Point) :
    (egEncResult rd rc m c1 s secret).Records := by
  cases secret with
  | identity => exact h
  | affine sx sy => exact CmdResult.records_check h ((State.writePoint_unwrittenRead s (pairOf rd) c1).trans h)

theorem cmdEgEnc_records (hwf : (Instr.egEnc rd ra rb rc).wellFormed = true)
    (h : ((s.notePoint (pairOf ra)).noteRegs [rb]).unwrittenRead = true) : (cmdEgEnc rd ra rb rc s).Records := by
  simp only [Instr.wellFormed, Bool.and_eq_true, Bool.not_eq_true'] at hwf
  obtain ⟨⟨hd, ha⟩, hapart⟩ := hwf
  simp only [cmdEgEnc, hd, ha, hapart, Bool.and_self, Bool.not_true, Bool.false_eq_true, if_false]
  refine CmdResult.records_check h (CmdResult.records_check h ?_)
  split
  · exact h
  · split
    · exact h
    · refine egEncResult_records rd rc ?_ _ _ _
      exact h

theorem egDecResult_records (h : s.unwrittenRead = true) (c2 : Nat) (secret : Point) :
    (egDecResult rd c2 s secret).Records := by
  cases secret with
  | identity => exact h
  | affine sx sy => simp only [egDecResult]; split <;> exact h

theorem cmdEgDec_records (hwf : (Instr.egDec rd ra rb rc).wellFormed = true)
    (h : (((s.noteRegs [ra]).notePoint (pairOf rb)).noteRegs [rc]).unwrittenRead = true) :
    (cmdEgDec rd ra rb rc s).Records := by
  refine CmdResult.records_passed hwf (CmdResult.records_check h (CmdResult.records_check h ?_))
  split
  · exact h
  · exact egDecResult_records _ h _ _

theorem cmdRsaPrimeTest_records (aux : Fin 16) (h : (s.noteRegs [ra]).unwrittenRead = true) :
    (cmdRsaPrimeTest rd ra aux s).Records := h

theorem cmdRsaGenPrime_records (h : (s.noteRegs [ra]).unwrittenRead = true) : (cmdRsaGenPrime rd ra s).Records := by
  refine CmdResult.records_check h ?_
  split
  · trivial
  · exact h

theorem cmdRsaKeygen_records (hwf : (Instr.rsaKeygen rd ra rb rc).wellFormed = true)
    (h : (s.noteRegs [ra]).unwrittenRead = true) : (cmdRsaKeygen rd ra rb rc s).Records := by
  simp only [cmdRsaKeygen, if_neg (rsaKeygen_apart hwf)]
  refine CmdResult.records_check h ?_
  split
  · trivial
  · exact h
  · exact h

/-- Both registers of RSA_SIGN and of RSA_VERIFY are read before the regions are checked (R522, R525, R608). -/
theorem cmdRsaSign_records (h : (s.noteRegs [ra, rb]).unwrittenRead = true) : (cmdRsaSign ra rb s).Records := by
  have hmem (rs : List Region) := State.noteMem_keeps _ rs h
  exact CmdResult.records_check h (CmdResult.records_check (hmem _) (hmem _))

theorem cmdRsaVerify_records (h : (s.noteRegs [ra, rb]).unwrittenRead = true) : (cmdRsaVerify rd ra rb s).Records := by
  have hmem (rs : List Region) := State.noteMem_keeps _ rs h
  exact CmdResult.records_check h (CmdResult.records_check (hmem _) (hmem _))

end

/-! ### Region sources -/

section
variable {s : State}

theorem cmdRsaSign_records_of_region (ra rb : Reg)
    (hfits : (s.fits (s.regionA s.desc.lenA.toNat) && s.fits (s.regionD (nbytes (s.reg ra)))) = true)
    (h : ((s.noteRegs [ra, rb]).noteMem [s.regionA s.desc.lenA.toNat]).unwrittenRead = true) :
    (cmdRsaSign ra rb s).Records :=
  CmdResult.records_passed hfits (CmdResult.records_check h h)

theorem cmdRsaVerify_records_of_region (rd ra rb : Reg)
    (hfits : (s.fits (s.regionA s.desc.lenA.toNat) && s.fits (s.regionB s.desc.lenB.toNat)) = true)
    (h : ((s.noteRegs [ra, rb]).noteMem
      [s.regionA s.desc.lenA.toNat, s.regionB s.desc.lenB.toNat]).unwrittenRead = true) :
    (cmdRsaVerify rd ra rb s).Records :=
  CmdResult.records_passed hfits (CmdResult.records_check h h)

theorem cmdSalsaQr_records (hfits : (s.fits (s.regionA 16) && s.fits (s.regionD 16)) = true)
    (h : (s.noteMem [s.regionA 16]).unwrittenRead = true) : (cmdSalsaQr s).Records :=
  CmdResult.records_passed hfits (CmdResult.records_storeOutput h _)

theorem cmdSalsaBlock_records (hfits : (s.fits (s.regionA 64) && s.fits (s.regionD 64)) = true)
    (h : (s.noteMem [s.regionA 64]).unwrittenRead = true) : (cmdSalsaBlock s).Records :=
  CmdResult.records_passed hfits (CmdResult.records_storeOutput h _)

theorem cmdSalsaKs_records (hlen : s.lengthsOk = true)
    (hfits : (s.fits (s.regionK 32) && s.fits (s.regionN 8) && s.fits (s.regionD s.desc.lenA.toNat)) = true)
    (h : (s.noteMem [s.regionK 32, s.regionN 8]).unwrittenRead = true) : (cmdSalsaKs s).Records :=
  CmdResult.records_passed hlen (CmdResult.records_passed hfits (CmdResult.records_storeOutput h _))

theorem cmdStream_records (cipher : List Byte → List Byte → List Byte → List Byte) (hlen : s.lengthsOk = true)
    (hfits : (s.fits (s.regionK 32) && s.fits (s.regionN 8) && s.fits (s.regionA s.desc.lenA.toNat) &&
      s.fits (s.regionD s.desc.lenA.toNat)) = true)
    (h : (s.noteMem [s.regionK 32, s.regionN 8, s.regionA s.desc.lenA.toNat]).unwrittenRead = true) :
    (cmdStream cipher s).Records :=
  CmdResult.records_passed hlen (CmdResult.records_passed hfits (CmdResult.records_storeOutput h _))

end

/-! ### Unwritten bytes of the sources that a command's row of R604 names -/

section
variable {s : State}

theorem exec_rsaSign_of_unwritten_byte {t : State} {ra rb : Reg} {k : Nat}
    (hfits : s.desc.addrA.toNat + s.desc.lenA.toNat ≤ s.cfg.dmemBytes)
    (hroom : s.desc.addrD.toNat + nbytes (s.reg ra) ≤ s.cfg.dmemBytes) (hk : k < s.desc.lenA.toNat)
    (h : s.dmem.read (s.desc.addrA.toNat + k) = none) (hexec : exec (.rsaSign ra rb) s = .next t) :
    t.unwrittenRead = true := by
  refine exec_records hexec (commandResult_ends s nofun nofun) (cmdRsaSign_records_of_region ra rb ?_ ?_)
  · exact Bool.and_eq_true_iff.2 ⟨decide_eq_true hfits, decide_eq_true hroom⟩
  · exact State.noteMem_of_unwritten_byte _ (r := s.regionA _) (by simp) hk h

theorem exec_rsaVerify_of_unwritten_byte {t : State} {rd ra rb : Reg} {k : Nat}
    (hfitsA : s.desc.addrA.toNat + s.desc.lenA.toNat ≤ s.cfg.dmemBytes)
    (hfitsB : s.desc.addrB.toNat + s.desc.lenB.toNat ≤ s.cfg.dmemBytes)
    (h : k < s.desc.lenA.toNat ∧ s.dmem.read (s.desc.addrA.toNat + k) = none ∨
      k < s.desc.lenB.toNat ∧ s.dmem.read (s.desc.addrB.toNat + k) = none)
    (hexec : exec (.rsaVerify rd ra rb) s = .next t) : t.unwrittenRead = true := by
  refine exec_records hexec (commandResult_ends s nofun nofun) (cmdRsaVerify_records_of_region rd ra rb ?_ ?_)
  · exact Bool.and_eq_true_iff.2 ⟨decide_eq_true hfitsA, decide_eq_true hfitsB⟩
  · obtain ⟨hk, hA⟩ | ⟨hk, hB⟩ := h
    · exact State.noteMem_of_unwritten_byte _ (r := s.regionA _) (by simp) hk hA
    · exact State.noteMem_of_unwritten_byte _ (r := s.regionB _) (by simp) hk hB

theorem exec_salsa_of_unwritten_byte {t : State} {i : Instr} {n k : Nat}
    (hi : i = .salsaQr ∧ n = 16 ∨ i = .salsaBlock ∧ n = 64) (hk : k < n)
    (hfits : s.desc.addrA.toNat + n ≤ s.cfg.dmemBytes) (hroom : s.desc.addrD.toNat + n ≤ s.cfg.dmemBytes)
    (h : s.dmem.read (s.desc.addrA.toNat + k) = none) (hexec : exec i s = .next t) : t.unwrittenRead = true := by
  have hchecks : (s.fits (s.regionA n) && s.fits (s.regionD n)) = true :=
    Bool.and_eq_true_iff.2 ⟨decide_eq_true hfits, decide_eq_true hroom⟩
  have hnote : (s.noteMem [s.regionA n]).unwrittenRead = true :=
    State.noteMem_of_unwritten_byte _ (r := s.regionA _) (by simp) hk h
  obtain ⟨rfl, rfl⟩ | ⟨rfl, rfl⟩ := hi
  · exact exec_records hexec (commandResult_ends s nofun nofun) (cmdSalsaQr_records hchecks hnote)
  · exact exec_records hexec (commandResult_ends s nofun nofun) (cmdSalsaBlock_records hchecks hnote)

/-- R609 for the four stream commands; SALSA_KS reads no data. -/
theorem exec_stream_of_unwritten_byte {t : State} {i : Instr} {k : Nat} (hi : checksLengths i = true)
    (hlen : s.lengthsOk = true) (hfitsK : s.desc.addrK.toNat + 32 ≤ s.cfg.dmemBytes)
    (hfitsN : s.desc.addrN.toNat + 8 ≤ s.cfg.dmemBytes)
    (hroom : s.desc.addrD.toNat + s.desc.lenA.toNat ≤ s.cfg.dmemBytes)
    (hfitsA : i ≠ .salsaKs → s.desc.addrA.toNat + s.desc.lenA.toNat ≤ s.cfg.dmemBytes)
    (h : k < 32 ∧ s.dmem.read (s.desc.addrK.toNat + k) = none ∨ k < 8 ∧ s.dmem.read (s.desc.addrN.toNat + k) = none ∨
      i ≠ .salsaKs ∧ k < s.desc.lenA.toNat ∧ s.dmem.read (s.desc.addrA.toNat + k) = none)
    (hexec : exec i s = .next t) : t.unwrittenRead = true := by
  have hK : s.fits (s.regionK 32) = true := decide_eq_true hfitsK
  have hN : s.fits (s.regionN 8) = true := decide_eq_true hfitsN
  have hD : s.fits (s.regionD s.desc.lenA.toNat) = true := decide_eq_true hroom
  have hends : (commandResult s i).ends = true := by
    obtain rfl | rfl | rfl | rfl := checksLengths_iff.1 hi <;> exact commandResult_ends s nofun nofun
  refine exec_records hexec hends ?_
  by_cases hks : i = .salsaKs
  · subst hks
    refine cmdSalsaKs_records hlen (by simp [hK, hN, hD]) ?_
    obtain ⟨hk, hread⟩ | ⟨hk, hread⟩ | ⟨hne, -⟩ := h
    · exact State.noteMem_of_unwritten_byte _ (r := s.regionK _) (by simp) hk hread
    · exact State.noteMem_of_unwritten_byte _ (r := s.regionN _) (by simp) hk hread
    · exact absurd rfl hne
  · have hA : s.fits (s.regionA s.desc.lenA.toNat) = true := decide_eq_true (hfitsA hks)
    have hchecks : (s.fits (s.regionK 32) && s.fits (s.regionN 8) && s.fits (s.regionA s.desc.lenA.toNat) &&
        s.fits (s.regionD s.desc.lenA.toNat)) = true := by simp [hK, hN, hA, hD]
    have hnote : (s.noteMem [s.regionK 32, s.regionN 8, s.regionA s.desc.lenA.toNat]).unwrittenRead = true := by
      obtain ⟨hk, hread⟩ | ⟨hk, hread⟩ | ⟨-, hk, hread⟩ := h
      · exact State.noteMem_of_unwritten_byte _ (r := s.regionK _) (by simp) hk hread
      · exact State.noteMem_of_unwritten_byte _ (r := s.regionN _) (by simp) hk hread
      · exact State.noteMem_of_unwritten_byte _ (r := s.regionA _) (by simp) hk hread
    obtain rfl | rfl | rfl | rfl := checksLengths_iff.1 hi
    · exact absurd rfl hks
    all_goals exact cmdStream_records _ hlen hchecks hnote

end

/-! ### Window reads -/

section
variable {s : State} {off : Word}

/-- While BUSY = 0, a read of a word of an unwritten register returns no value (R101, R203). -/
theorem hostRead_operandWord_of_unwritten {w : Nat} (hidle : s.status.busy = false)
    (hreach : reach s.cfg 32 off = .operandWord w) (h : s.written s.osel = false) :
    hostRead 32 off s = s.returnsNothing := by
  rw [hostRead, hreach]
  simp [hidle, h]

/-- A DMEM word with a byte not written has no value (R204). -/
theorem Memory.readWord_eq_none {m : Memory} {a j : Nat} (hj : j < 4) (h : Memory.read m (a + j) = none) :
    Memory.readWord m a = none := by
  unfold Memory.readWord
  split
  · next h0 h1 h2 h3 =>
    have hsome : Memory.read m (a + j) ≠ none := by interval_cases j <;> simp [h0, h1, h2, h3]
    exact absurd h hsome
  · rfl

theorem hostRead_dmemWord_of_unwritten {a : Nat} (hidle : s.status.busy = false)
    (hreach : reach s.cfg 32 off = .dmemWord a) (h : s.dmem.readWord a = none) :
    hostRead 32 off s = s.returnsNothing := by
  rw [hostRead, hreach]
  simp [hidle, h]

end

/-- Settles O27: in each row the record is made by the read of the unwritten source, and the command then keeps it
(`exec_records`) or the window read returns nothing. -/
theorem readingTheUnwrittenIsRecorded : Obligations.ReadingTheUnwrittenIsRecorded := by
  intro s t
  have hpoint {u : State} {j : Pair} (hu : Noted s u) (h : ¬ PointReady j s) : (u.notePoint j).unwrittenRead = true :=
    u.notePoint_of_not_ready fun hj => h ((hu.pointReady_iff j).1 hj)
  have hreg {u : State} {r : Reg} (hu : Noted s u) (h : s.written r = false) : (u.noteRegs [r]).unwrittenRead = true :=
    u.noteRegs_of_unwritten (List.mem_singleton_self r) ((hu.written_eq r).trans h)
  refine ⟨?montgomery, ?modInv, ?ecOnCurve, ?ecAdd, ?ecDbl, ?ecSmul, ?egEnc, ?egDec, ?primeTest, ?primeSearch, ?rsa,
    ?rsaSign, ?rsaVerify, ?salsa, ?stream, ?operandWindow, ?dmemWindow⟩
  case montgomery =>
    intro rd ra rb rc r hr h hexec
    have hnote := s.noteRegs_of_unwritten hr h
    obtain hexec | hexec | hexec := hexec
    · exact exec_records hexec (commandResult_ends s nofun nofun) (cmdMontMul_records rd ra rb rc hnote)
    · exact exec_records hexec (commandResult_ends s nofun nofun) (cmdModMul_records rd ra rb rc hnote)
    · exact exec_records hexec (commandResult_ends s nofun nofun) (cmdModExp_records rd ra rb rc hnote)
  case modInv =>
    intro rd ra rc r hr h hexec
    exact exec_records hexec (commandResult_ends s nofun nofun)
      (cmdModInv_records rd ra rc (s.noteRegs_of_unwritten hr h))
  case ecOnCurve =>
    intro rd ra heven h hexec
    exact exec_records hexec (commandResult_ends s nofun nofun)
      (cmdEcOnCurve_records rd ra heven (s.notePoint_of_not_ready h))
  case ecAdd =>
    intro rd ra rb hwf h hexec
    refine exec_records hexec (commandResult_ends s nofun nofun) (cmdEcAdd_records rd ra rb hwf ?_)
    obtain hA | hB := h
    · exact State.notePoint_keeps _ _ (s.notePoint_of_not_ready hA)
    · exact hpoint (s.notePoint_noted _) hB
  case ecDbl =>
    intro rd ra hwf h hexec
    exact exec_records hexec (commandResult_ends s nofun nofun)
      (cmdEcDbl_records rd ra hwf (s.notePoint_of_not_ready h))
  case ecSmul =>
    intro rd ra rb hwf h hexec
    refine exec_records hexec (commandResult_ends s nofun nofun) (cmdEcSmul_records rd ra rb hwf ?_)
    obtain hk | hB := h
    · exact State.notePoint_keeps _ _ (hreg (Noted.refl s) hk)
    · exact hpoint (s.noteRegs_noted _) hB
  case egEnc =>
    intro rd ra rb rc hwf h hexec
    refine exec_records hexec (commandResult_ends s nofun nofun) (cmdEgEnc_records rd ra rb rc hwf ?_)
    obtain hQ | hm := h
    · exact State.noteRegs_keeps _ _ (s.notePoint_of_not_ready hQ)
    · exact hreg (s.notePoint_noted _) hm
  case egDec =>
    intro rd ra rb rc hwf h hexec
    refine exec_records hexec (commandResult_ends s nofun nofun) (cmdEgDec_records rd ra rb rc hwf ?_)
    obtain hd | hC | hc := h
    · exact State.noteRegs_keeps _ _ (State.notePoint_keeps _ _ (hreg (Noted.refl s) hd))
    · exact State.noteRegs_keeps _ _ (hpoint (s.noteRegs_noted _) hC)
    · exact hreg ((s.noteRegs_noted _).trans (State.notePoint_noted _ _)) hc
  case primeTest =>
    intro rd ra aux h hexec
    exact exec_records hexec (commandResult_ends s nofun nofun)
      (cmdRsaPrimeTest_records rd ra aux (hreg (Noted.refl s) h))
  case primeSearch =>
    intro i rd ra rb rc hi hwf h hbusy hexec hdone
    have hnote := hreg (Noted.refl s) h
    refine exec_records hexec (ends_of_completed hbusy hexec hdone) ?_
    obtain rfl | rfl := hi
    · exact cmdRsaGenPrime_records rd ra hnote
    · exact cmdRsaKeygen_records rd ra rb rc hwf hnote
  case rsa =>
    intro i rd ra rb hi h hexec
    have hnote : (s.noteRegs [ra, rb]).unwrittenRead = true := by
      obtain h | h := h
      · exact s.noteRegs_of_unwritten (by simp) h
      · exact s.noteRegs_of_unwritten (by simp) h
    obtain rfl | rfl := hi
    · exact exec_records hexec (commandResult_ends s nofun nofun) (cmdRsaSign_records ra rb hnote)
    · exact exec_records hexec (commandResult_ends s nofun nofun) (cmdRsaVerify_records rd ra rb hnote)
  case rsaSign => exact fun ra rb k => exec_rsaSign_of_unwritten_byte
  case rsaVerify => exact fun rd ra rb k => exec_rsaVerify_of_unwritten_byte
  case salsa => exact fun i n k => exec_salsa_of_unwritten_byte
  case stream =>
    intro i k hi hlenK hlenN
    exact exec_stream_of_unwritten_byte (checksLengths_iff.2 hi) (State.lengthsOk_of_eq hlenK hlenN)
  case operandWindow =>
    intro off haligned hlow hhigh h hidle
    have hreach : reach s.cfg 32 off = .operandWord ((off.toNat - 0x1000) / 4) := by
      rw [reach_aligned s.cfg haligned, target_above s.cfg hlow, if_pos hhigh]
    exact hostRead_operandWord_of_unwritten hidle hreach h
  case dmemWindow =>
    intro off k j hopw hk hoff hj h hidle
    exact hostRead_dmemWord_of_unwritten hidle (reach_dmemWord hopw hk hoff) (Memory.readWord_eq_none hj h)

end Sys2Proof.Machine
end

section
/-! The prime searches over several steps of the machine (60_exceptions.md R621; 45_rsa.md R513, R514, R517; entry 9): a
search that ends is looked at with a larger budget in each step, and its answer does not depend on the budget. -/

namespace Sys2Proof.Machine

open Sys2Proof

/-! ### The answer of a search does not depend on its budget -/

theorem genPrime_mono {bits m n : Nat} (hmn : m ≤ n) {g : RandomSource} {r : Nat × RandomSource}
    (h : genPrime bits m g = some r) : genPrime bits n g = some r := by
  induction m generalizing n g with
  | zero => cases h
  | succ m ih =>
    obtain ⟨n, rfl⟩ := Nat.exists_eq_add_of_lt hmn
    rw [genPrime_succ] at h ⊢
    split at h
    · next hpass => rwa [if_pos hpass]
    · next hfail =>
      rw [if_neg hfail]
      exact ih (by omega) h

theorem genPrime_unique {bits m n : Nat} {g : RandomSource} {r r' : Nat × RandomSource}
    (h : genPrime bits m g = some r) (h' : genPrime bits n g = some r') : r = r' :=
  Option.some.inj ((genPrime_mono (le_max_left m n) h).symm.trans (genPrime_mono (le_max_right m n) h'))

/-- R513: what a search finds has passed IsPrime. -/
theorem isPrime_of_genPrime {bits : Nat} :
    ∀ (fuel : Nat) {g g' : RandomSource} {c : Nat}, genPrime bits fuel g = some (c, g') →
      ∃ h, (isPrime c Config.mrRoundsDefault h).1 = true := by
  intro fuel
  induction fuel with
  | zero => intro g g' c h; cases h
  | succ fuel ih =>
    intro g g' c h
    rw [genPrime_succ] at h
    split at h
    · next hpass => cases h; exact ⟨_, hpass⟩
    · exact ih h

/-- R514 (a): a prime of GenPrime has no small prime factor but itself. -/
theorem genPrime_small_factor {bits fuel c sp : Nat} {g g' : RandomSource} (hbits : 2 ≤ bits)
    (h : genPrime bits fuel g = some (c, g')) (hmem : sp ∈ Config.smallPrimes) (hdvd : c % sp = 0) : c = sp := by
  have htwo : 2 ≤ c := (Nat.le_self_pow (by omega) 2).trans (le_genPrime fuel h)
  obtain ⟨draws, hpass⟩ := isPrime_of_genPrime fuel h
  rw [isPrime_of_small_factor htwo hmem hdvd] at hpass
  exact of_decide_eq_true hpass

/-! ### The steps of a held command -/

/-- The state with another count of steps that left the held command's search pending (entry 9). -/
abbrev State.withAttempts (s : State) (a : Nat) : State := { s with attempts := a }

/-- After `n` more pending steps, a step examines at least `n` candidates. -/
theorem State.le_searchFuel (s : State) (n : Nat) : n ≤ (s.withAttempts (s.attempts + n)).searchFuel := by
  simp only [State.searchFuel, Config.searchBudget]
  omega

theorem CmdResult.eq_searching_of_not_ends {r : CmdResult} (h : ¬ r.ends = true) : r = .searching := by
  cases r with
  | commit t => exact absurd rfl h
  | raise e t => exact absurd rfl h
  | searching => rfl

theorem core_run_succ {M : Host.Core} {s u : M.State} (h : M.step s = .next u) (k : Nat) :
    M.run (k + 1) s = M.run k u := by
  rw [Host.Core.run, h]

/-- With nothing on the agenda, the machine's next step is that of the held command (R401). -/
theorem core_run_of_held {i : Instr} {s : State} (hadm : admitted s.cfg = true) (hbusy : s.status.busy = true)
    (hnil : s.agenda = []) (hdecode : decode s.cmd = .ok i) (k : Nat) :
    Sys2Proof.core.run (k + 1) s = Sys2Proof.core.run k (s.settle (commandResult s i)) := by
  refine core_run_succ (M := Sys2Proof.core) ?_ k
  exact (step_of_agenda_nil hadm hnil).trans ((sequencerStep_of_decode hbusy hdecode).trans (exec_eq i s))

/-- R621: a held command that would end after `m` more pending steps ends after finitely many steps of the machine, and
the last of them is its step from a state that differs in the count alone. -/
theorem core_run_until_ends {i : Instr} (m : Nat) {s : State} (hadm : admitted s.cfg = true)
    (hbusy : s.status.busy = true) (hnil : s.agenda = []) (hdecode : decode s.cmd = .ok i)
    (hends : (commandResult (s.withAttempts (s.attempts + m)) i).ends = true) :
    ∃ k a, Sys2Proof.core.run k s = exec i (s.withAttempts a) ∧ (commandResult (s.withAttempts a) i).ends = true := by
  induction m generalizing s with
  | zero =>
    refine ⟨1, s.attempts, ?_, hends⟩
    rw [core_run_of_held hadm hbusy hnil hdecode, exec_eq]
    rfl
  | succ m ih =>
    by_cases hnow : (commandResult s i).ends = true
    · refine ⟨1, s.attempts, ?_, hnow⟩
      rw [core_run_of_held hadm hbusy hnil hdecode, exec_eq]
      rfl
    · have hlater : s.attempts + (m + 1) = s.attempts + 1 + m := by omega
      rw [hlater] at hends
      obtain ⟨k, a, hrun, hended⟩ := ih (s := s.withAttempts (s.attempts + 1)) hadm hbusy hnil hdecode hends
      refine ⟨k + 1, a, ?_, hended⟩
      rw [core_run_of_held hadm hbusy hnil hdecode, CmdResult.eq_searching_of_not_ends hnow]
      exact hrun

/-! ### The two searches -/

section
variable {rd ra rb rc : Reg} {s : State} (hw : Written [ra] s)
include hw

/-- Past its checks, RSA_GEN_PRIME ends in a step exactly where the step's search does. -/
theorem genPrime_of_ends (hlo : 2 ≤ s.reg ra) (hhi : s.reg ra ≤ s.cfg.opw)
    (hends : (cmdRsaGenPrime rd ra s).ends = true) :
    ∃ r, genPrime (s.reg ra) s.searchFuel s.rng = some r := by
  cases hsearch : genPrime (s.reg ra) s.searchFuel s.rng with
  | some r => exact ⟨r, rfl⟩
  | none =>
    have hrange : ¬ (s.reg ra < 2 ∨ s.reg ra > s.cfg.opw) := by omega
    simp only [cmdRsaGenPrime, State.noteRegs_of_written s hw, if_neg hrange, hsearch] at hends
    cases hends

/-- The same for RSA_KEYGEN and its two searches. -/
theorem genPrimes_of_ends (hwf : (Instr.rsaKeygen rd ra rb rc).wellFormed = true) (hlo : 4 ≤ s.reg ra)
    (hhi : s.reg ra ≤ s.cfg.opw) (hends : (cmdRsaKeygen rd ra rb rc s).ends = true) :
    ∃ p g1 q, genPrime (s.reg ra / 2) s.searchFuel s.rng = some (p, g1) ∧
      genPrime (s.reg ra / 2) s.searchFuel g1 = some q := by
  simp only [cmdRsaKeygen, if_neg (rsaKeygen_apart hwf), State.noteRegs_of_written s hw,
    if_neg (not_or.2 ⟨hlo.not_gt, hhi.not_gt⟩), rsaKeygen] at hends
  cases hp : genPrime (s.reg ra / 2) s.searchFuel s.rng with
  | none =>
    rw [hp] at hends
    cases hends
  | some r =>
    obtain ⟨p, g1⟩ := r
    cases hq : genPrime (s.reg ra / 2) s.searchFuel g1 with
    | none =>
      simp only [hp, hq] at hends
      cases hends
    | some q => exact ⟨p, g1, q, rfl, hq⟩

end

/-- R513, R514 (a), R621: a held RSA_GEN_PRIME ends with what any budget that suffices finds. -/
theorem core_run_rsaGenPrime {rd ra : Reg} {s : State} {n c : Nat} {g : RandomSource} (hadm : admitted s.cfg = true)
    (hbusy : s.status.busy = true) (hnil : s.agenda = []) (hdecode : decode s.cmd = .ok (.rsaGenPrime rd ra))
    (hw : Written [ra] s) (hlo : 2 ≤ s.reg ra) (hhi : s.reg ra ≤ s.cfg.opw)
    (hsearch : genPrime (s.reg ra) n s.rng = some (c, g)) :
    ∃ k a, Sys2Proof.core.run k s = exec (.rsaGenPrime rd ra) (s.withAttempts a) ∧
      genPrime (s.reg ra) (s.withAttempts a).searchFuel s.rng = some (c, g) := by
  have hfar := genPrime_mono (s.le_searchFuel n) hsearch
  have hends : (cmdRsaGenPrime rd ra (s.withAttempts (s.attempts + n))).ends = true := by
    rw [cmdRsaGenPrime_eq_commit (s := s.withAttempts (s.attempts + n)) hw hlo hhi hfar, CmdResult.ends_commit]
  obtain ⟨k, a, hrun, hended⟩ := core_run_until_ends n hadm hbusy hnil hdecode hends
  obtain ⟨r, hr⟩ := genPrime_of_ends (s := s.withAttempts a) hw hlo hhi hended
  exact ⟨k, a, hrun, hr.trans (congrArg some (genPrime_unique hr hsearch))⟩

/-- RSA_KEYGEN past its checks ends where both searches do, with a key or with an error (R518). -/
theorem cmdRsaKeygen_ends {rd ra rb rc : Reg} {s : State} {p q : Nat} {g1 g2 : RandomSource}
    (hwf : (Instr.rsaKeygen rd ra rb rc).wellFormed = true) (hw : Written [ra] s) (hlo : 4 ≤ s.reg ra)
    (hhi : s.reg ra ≤ s.cfg.opw) (hp : genPrime (s.reg ra / 2) s.searchFuel s.rng = some (p, g1))
    (hq : genPrime (s.reg ra / 2) s.searchFuel g1 = some (q, g2)) : (cmdRsaKeygen rd ra rb rc s).ends = true := by
  cases hkey : keyOf p q with
  | key n e d => rw [cmdRsaKeygen_eq_commit hwf hw hlo hhi hp hq hkey, CmdResult.ends_commit]
  | failed e => rw [cmdRsaKeygen_eq_raise hwf hw hlo hhi hp hq hkey, CmdResult.ends_raise]

/-- R517, R621: a held RSA_KEYGEN ends with the primes that any budget that suffices finds. -/
theorem core_run_rsaKeygen {rd ra rb rc : Reg} {s : State} {n p q : Nat} {g1 g2 : RandomSource}
    (hadm : admitted s.cfg = true) (hbusy : s.status.busy = true) (hnil : s.agenda = [])
    (hdecode : decode s.cmd = .ok (.rsaKeygen rd ra rb rc)) (hwf : (Instr.rsaKeygen rd ra rb rc).wellFormed = true)
    (hw : Written [ra] s) (hlo : 4 ≤ s.reg ra) (hhi : s.reg ra ≤ s.cfg.opw)
    (hp : genPrime (s.reg ra / 2) n s.rng = some (p, g1)) (hq : genPrime (s.reg ra / 2) n g1 = some (q, g2)) :
    ∃ k a, Sys2Proof.core.run k s = exec (.rsaKeygen rd ra rb rc) (s.withAttempts a) ∧
      genPrime (s.reg ra / 2) (s.withAttempts a).searchFuel s.rng = some (p, g1) ∧
      genPrime (s.reg ra / 2) (s.withAttempts a).searchFuel g1 = some (q, g2) := by
  have hfarP := genPrime_mono (s.le_searchFuel n) hp
  have hfarQ := genPrime_mono (s.le_searchFuel n) hq
  have hends := cmdRsaKeygen_ends (s := s.withAttempts (s.attempts + n)) hwf hw hlo hhi hfarP hfarQ
  obtain ⟨k, a, hrun, hended⟩ := core_run_until_ends n hadm hbusy hnil hdecode hends
  obtain ⟨p', g1', r, hp', hq'⟩ := genPrimes_of_ends (s := s.withAttempts a) hw hwf hlo hhi hended
  cases genPrime_unique hp' hp
  exact ⟨k, a, hrun, hp', hq'.trans (congrArg some (genPrime_unique hq' hq))⟩

/-- Entry 9: a command that is still BUSY after its step left its search pending, and counted the step alone. -/
theorem eq_withAttempts_of_busy {i : Instr} {s t : State} (hexec : exec i s = .next t) (hstill : t.status.busy = true) :
    t = s.withAttempts (s.attempts + 1) := by
  rw [exec_eq] at hexec
  cases hexec
  cases hresult : commandResult s i with
  | commit u => rw [hresult, State.settle_commit, State.finish_status, Status.complete_busy] at hstill; cases hstill
  | raise e u => rw [hresult, State.settle_raise, State.finish_status, Status.complete_busy] at hstill; cases hstill
  | searching => rfl

/-- Settles O46: the budget grows until the search ends (`core_run_until_ends`), and the command's last step is then that
of `exec_of_commit_setRng_setReg` or of O47 (`rsaKeygenWritesAKeyOrRaises`). -/
theorem primeSearchThatEndsCompletes : Obligations.PrimeSearchThatEndsCompletes := by
  refine ⟨?_, ?_, fun i s t _ hexec hstill => eq_withAttempts_of_busy hexec hstill⟩
  · intro rd ra s n c g hadm hbusy hnil hdecode hw hlo hhi hsearch
    obtain ⟨k, a, hrun, hnear⟩ := core_run_rsaGenPrime hadm hbusy hnil hdecode hw hlo hhi hsearch
    obtain ⟨t, hexec, hreg, hwritten, hrng, -, hok, honly⟩ := exec_of_commit_setRng_setReg
      (s := s.withAttempts a) (i := .rsaGenPrime rd ra) (cmdRsaGenPrime_eq_commit hw hlo hhi hnear)
    exact ⟨k, t, hrun.trans hexec, hok, hreg, hwritten, hrng, honly, le_genPrime n hsearch,
      genPrime_lt (by omega) n hsearch, fun sp hmem hdvd => genPrime_small_factor hlo hsearch hmem hdvd⟩
  · intro rd ra rb rc s n p q g1 g2 hadm hbusy hnil hdecode hwf hw hlo hhi hp hq
    obtain ⟨k, a, hrun, hp', hq'⟩ := core_run_rsaKeygen hadm hbusy hnil hdecode hwf hw hlo hhi hp hq
    obtain ⟨hkey, hfail⟩ := rsaKeygenWritesAKeyOrRaises rd ra rb rc (s.withAttempts a) p q g1 g2 hwf hw hlo hhi hp' hq'
    by_cases hgood : p ≠ q ∧ Nat.Coprime 65537 ((p - 1) * (q - 1))
    · obtain ⟨hne, hcoprime⟩ := hgood
      obtain ⟨t, hexec, hn, he, hinv, hpos, hlt, -, -, hrng, hwd, hwb, hwc, -, hok, honly⟩ := hkey hne hcoprime
      refine ⟨k, t, hrun.trans hexec, hrng,
        fun _ _ => ⟨hn, he, hinv, hpos, hlt, hwd, hwb, hwc, hok, honly⟩, fun hbad => ?_⟩
      exact absurd hbad (not_or.2 ⟨hne, not_not_intro hcoprime⟩)
    · have hbad : p = q ∨ ¬ Nat.Coprime 65537 ((p - 1) * (q - 1)) := by tauto
      obtain ⟨t, hexec, hfailed, hrng, hnothing⟩ := hfail hbad
      exact ⟨k, t, hrun.trans hexec, hrng, fun hne hcoprime => absurd ⟨hne, hcoprime⟩ hgood,
        fun _ => ⟨hfailed, hnothing⟩⟩

end Sys2Proof.Machine
end

section
/-! The OFB commands (47_ofb.md R590 to R593): what OFB_ENC and OFB_DEC store, by the chaining values of the blocks. -/

namespace Sys2Proof.Machine

open Sys2Proof

/-- The chaining values of R590: cv_0 is the initial value, cv_(b+1) the first 8 bytes of the keystream under cv_b. -/
def ofbChain (key iv : List Byte) : Nat → List Byte
  | 0 => iv
  | b + 1 => (core64 (blockInput key (ofbChain key iv b) 0)).take 8

/-- The chain after its first block is the chain from the next chaining value on. -/
theorem ofbChain_succ (key iv : List Byte) (b : Nat) :
    ofbChain key iv (b + 1) = ofbChain key ((core64 (blockInput key iv 0)).take 8) b := by
  induction b with
  | zero => rfl
  | succ b ih => rw [ofbChain, ih, ← ofbChain]

/-- R590: byte j of the mask is byte j mod 64 of the keystream under the chaining value of block j div 64. -/
theorem ofbMask_getElem? (key : List Byte) {n j : Nat} {cv : List Byte} (hcv : cv.length = 8) (hj : j < 64 * n) :
    (ofbMask key n cv)[j]? = (core64 (blockInput key (ofbChain key cv (j / 64)) 0))[j % 64]? := by
  induction n generalizing cv j with
  | zero => omega
  | succ n ih =>
    rw [ofbMask, List.take_of_length_le hcv.le]
    by_cases h : j < 64
    · rw [List.getElem?_append_left (by simpa using h), Nat.div_eq_of_lt h, Nat.mod_eq_of_lt h, ofbChain]
    · rw [List.getElem?_append_right (by simpa using h), core64_length, ih (by simp) (by omega), ← ofbChain_succ,
        show (j - 64) / 64 + 1 = j / 64 by omega, show (j - 64) % 64 = j % 64 by omega]

/-- Settles O55: the stored string is `ofb` (`cmdStream_eq_commit`), which masks the data with `ofbMask`. -/
theorem ofbCommandsStoreOfb : Obligations.OfbCommandsStoreOfb := by
  intro i s key iv data hi hlenK hlenN hkey hiv hlen hholdsK hholdsN hholdsA hfitsK hfitsN hfitsA hroom
  have hcommit : commandResult s i = .commit (s.storeOutput (ofb key iv data)) := by
    obtain rfl | rfl := hi <;>
      exact cmdStream_eq_commit hlenK hlenN hkey hiv hholdsK hholdsN hfitsK hfitsN ofb hlen hholdsA hfitsA hroom
  obtain ⟨t, hexec, hstored, hlenD, hrest⟩ := exec_of_commit_storeOutput hcommit
  rw [ofb_length] at hlenD hrest
  refine ⟨t, ofbChain key iv, hexec, ofb_length _ _ _, hstored, rfl, fun _ => rfl, fun j d k hd hk => ?_, ?_, hrest⟩
  · have hj : j < data.length := (List.getElem?_eq_some_iff.1 hd).1
    rw [ofb_eq_xorBytes]
    exact xorBytes_getElem? hd ((ofbMask_getElem? key hiv (by omega)).trans hk)
  · simpa [hlen] using hlenD

end Sys2Proof.Machine
end
